-- ==== Sys2Proof/Word.lean ====
section
/-! DEFINITION. The word types of the codec: the byte (R4) and the cycle input word (R61). -/

namespace Sys2Proof

/-- A byte: 8 bits, unsigned, 0..255 (R4). Every field of a frame is one byte. -/
abbrev Byte := BitVec 8

/-- The cycle input word `{rst, tick, in_valid, in_data[7:0]}`: 11 bits, bit 0 the least significant (R61, R10). -/
abbrev CycleWord := BitVec 11

end Sys2Proof
end

