-- ==== Sys2Proof/Syntax.lean ====
section
/-! DEFINITION. The packet value of R80 and the instructions: one constructor per row of spec/opcode_table.json. -/

namespace Sys2Proof

/-- The value `{dst, src, cmd, data}` (R80). The bound `len(data) <= 255` is `Packet.wf` (WellFormed.lean). The checksum is no field. -/
structure Packet where
  dst  : Byte
  src  : Byte
  cmd  : Byte
  data : List Byte
deriving DecidableEq, Repr

/-- One constructor per row of the opcode table, in its order: the four operations of the cycle word (R62), the four function ports
(R68), the assembler form FEEDTICK (R69) and the pseudo-instructions (R70). -/
inductive Instr where
  /-- `RESET`: return to the reset state (R115). -/
  | reset
  /-- `FEED b`: deliver one byte (R102 to R109). -/
  | feed (b : Byte)
  /-- `TICK`: one strobe of the time base (R112, R113). -/
  | tick
  /-- `IDLE`: a cycle with no input (R114). -/
  | idle
  /-- `CHECKSUM(p)` (R81). -/
  | checksum (p : Packet)
  /-- `ENCODE(p)`, the framer (R84, R85). -/
  | encode (p : Packet)
  /-- `IS_RESPONSE(p)` (R82). -/
  | isResponse (p : Packet)
  /-- `RESPONSE_REQUIRED(p)` (R83). -/
  | responseRequired (p : Packet)
  /-- `FEEDTICK b`: a byte and a tick in one cycle (R69). -/
  | feedtick (b : Byte)
  /-- `FEED b0, ..., bk`: the source's `feed_buffer` (R70, R116). -/
  | feedBuffer (bytes : List Byte)
  /-- `TICK n` (R70). -/
  | tickN (n : Nat)
  /-- `IDLE n` (R70). -/
  | idleN (n : Nat)
  /-- `FRAME d, s, c, [x0, ..., xm]` (R70). -/
  | frame (dst src cmd : Byte) (data : List Byte)
deriving DecidableEq, Repr

end Sys2Proof
end

