-- ==== Sys2Proof/WellFormed.lean ====
section
/-! DEFINITION. The checks an operand must pass: a packet's data holds at most 255 bytes (R5, R80). -/

namespace Sys2Proof

/-- `len(p.data) <= 255`: a value with more data bytes is no packet (R80, R85). -/
def Packet.wf (p : Packet) : Bool := decide (p.data.length ≤ 255)

/-- The operands of an instruction are ones the spec admits. Every byte, count and byte list is. -/
def Instr.wf : Instr → Bool
  | .reset => true
  | .feed _ => true
  | .tick => true
  | .idle => true
  | .checksum p => p.wf
  | .encode p => p.wf
  | .isResponse p => p.wf
  | .responseRequired p => p.wf
  | .feedtick _ => true
  | .feedBuffer _ => true
  | .tickN _ => true
  | .idleN _ => true
  | .frame dst src cmd data => Packet.wf { dst := dst, src := src, cmd := cmd, data := data }

end Sys2Proof
end

