-- ==== Sys2Proof/Machine/Packet.lean ====
section
/-! DEFINITION. The pure functions of a packet: the checksum unit and the framer (R81, R84). -/

namespace Sys2Proof.Machine

/-- The start marker `SYNC0` (R6). -/
def sync0 : Byte := 0xBB

/-- The lead-in byte `SYNC1` (R6). -/
def sync1 : Byte := 0x88

/-- `sum(l)`: the natural sum of a list of bytes (R11). -/
def byteSum (l : List Byte) : Nat := (l.map BitVec.toNat).sum

/-- `CHECKSUM(p)`: the natural sum of destination, source, command, length and data, reduced modulo 256 once (R81). -/
def checksum (p : Packet) : Byte :=
  BitVec.ofNat 8 (p.dst.toNat + p.src.toNat + p.cmd.toNat + p.data.length + byteSum p.data)

/-- `ENCODE(p)`: the frame of a packet, element 0 sent first (R84, R43, R55). -/
def frameOf (p : Packet) : List Byte :=
  [sync0, sync1, p.dst, p.src, p.cmd, BitVec.ofNat 8 p.data.length] ++ p.data ++ [checksum p]

end Sys2Proof.Machine
end

