-- ==== Sys2Proof/Decode.lean ====
section
/-! DEFINITION. The cycle input word to its operation (R61 to R63), the assembler's words (R69) and the expansion of the
pseudo-instructions (R70). -/

namespace Sys2Proof

/-- `rst`, bit 10 (R61). -/
def rstBit (w : CycleWord) : Bool := w.getLsbD 10

/-- `tick`, bit 9 (R61). -/
def tickBit (w : CycleWord) : Bool := w.getLsbD 9

/-- `in_valid`, bit 8 (R61). -/
def inValidBit (w : CycleWord) : Bool := w.getLsbD 8

/-- `in_data`, bits 7:0, the operand of FEED, unsigned and not extended (R61, R63). -/
def feedByte (w : CycleWord) : Byte := w.extractLsb' 0 8

/-- The one operation of a cycle word, by the priority RESET, FEED, TICK, IDLE (R62, R100). A byte and a tick together are FEED: the tick
is discarded. No word is illegal. -/
def decodeWord (w : CycleWord) : Instr :=
  if rstBit w then .reset
  else if inValidBit w then .feed (feedByte w)
  else if tickBit w then .tick
  else .idle

/-- Why bits are no cycle word. -/
inductive Reject where
  /-- A bit above bit 10 is set: the input has eleven bits (R61; log 14). -/
  | bitAboveTen
deriving DecidableEq, Repr

/-- Decode a number laid out as the cycle word's bits; every other number is rejected by name. -/
def decode (w : Nat) : Except Reject Instr :=
  if w < 2048 then .ok (decodeWord (BitVec.ofNat 11 w)) else .error .bitAboveTen

/-- What the decoder reads from bits numbered as spec/opcode_table.json numbers them: the table's bit 0 is bit 0 of the word (R10, R61).
An instruction is one word, so nothing lies above the table's bits. -/
def decodeTableWord (_nbits w : Nat) : Option Instr :=
  match decode w with
  | .ok i => some i
  | .error _ => none

/-- The word of `RESET` (R69). -/
def resetWord : CycleWord := 0x400

/-- The word of `TICK` (R69). -/
def tickWord : CycleWord := 0x200

/-- The word of `IDLE` (R69). -/
def idleWord : CycleWord := 0x000

/-- The word of `FEED b`, `0x100 + b` (R69). -/
def feedWord (b : Byte) : CycleWord := 0x100 + b.setWidth 11

/-- The word of `FEEDTICK b`, `0x300 + b` (R69). -/
def feedtickWord (b : Byte) : CycleWord := 0x300 + b.setWidth 11

/-- The cycle words of a well-formed instruction, in order (R69, R70). The function ports have none (R68). -/
def encode : Instr → List CycleWord
  | .reset => [resetWord]
  | .feed b => [feedWord b]
  | .tick => [tickWord]
  | .idle => [idleWord]
  | .checksum _ => []
  | .encode _ => []
  | .isResponse _ => []
  | .responseRequired _ => []
  | .feedtick b => [feedtickWord b]
  | .feedBuffer bytes => bytes.map feedWord
  | .tickN n => List.replicate n tickWord
  | .idleN n => List.replicate n idleWord
  | .frame dst src cmd data => (Machine.frameOf { dst := dst, src := src, cmd := cmd, data := data }).map feedWord

/-- The operations of the deserializer an instruction stands for, one cycle each (R69, R70). The function ports are none (R68). -/
def expand : Instr → List Instr
  | .reset => [.reset]
  | .feed b => [.feed b]
  | .tick => [.tick]
  | .idle => [.idle]
  | .checksum _ => []
  | .encode _ => []
  | .isResponse _ => []
  | .responseRequired _ => []
  | .feedtick b => [.feed b]
  | .feedBuffer bytes => bytes.map .feed
  | .tickN n => List.replicate n .tick
  | .idleN n => List.replicate n .idle
  | .frame dst src cmd data => (Machine.frameOf { dst := dst, src := src, cmd := cmd, data := data }).map .feed

/-- A row of the cycle word's decode table: a word is the row's when `w AND mask = match` (R62). -/
structure DecodeRow where
  mask    : CycleWord
  pattern : CycleWord
deriving DecidableEq, Repr

/-- The four rows of R62, in its order: RESET, FEED, TICK, IDLE. -/
def decodeRows : List DecodeRow :=
  [{ mask := 0x400, pattern := 0x400 }, { mask := 0x500, pattern := 0x100 },
   { mask := 0x700, pattern := 0x200 }, { mask := 0x700, pattern := 0x000 }]

/-- The word belongs to the row. -/
def DecodeRow.hits (r : DecodeRow) (w : CycleWord) : Bool := w &&& r.mask == r.pattern

end Sys2Proof
end

