-- ==== Sys2Proof/Config.lean ====
section
/-! DEFINITION. What is fixed for one codec (the elaboration parameter of R8) and the free values of the outside world. -/

namespace Sys2Proof

/-- The elaboration parameters of one codec. R3: `T_IB` is the only one. -/
structure Config where
  /-- `T_IB`, the inter-byte timeout in ticks, a natural number 0..65535 (R8). -/
  tIB : Fin 65536
deriving DecidableEq, Repr

/-- The default of R8: `T_IB = 150`. -/
def Config.standard : Config := { tIB := 150 }

/-- DESIGN CHOICE (log 2, safe): the cycle word the outside world offers where `State.input` names none. The operations arrive from
outside, one word per step (R42, R61), and the spec does not say which: a FREE VALUE, with no body, applied to a counter. -/
opaque Config.offeredWord : Nat → CycleWord

/-- DESIGN CHOICE (log 8, safe): the value of `idx` after a FEED in DATA that finds `idx = 255`. R108 gives `idx + 1`, which is 256, and the
spec states no 8-bit value for it (R25): a FREE VALUE, with no body, applied to a counter. -/
opaque Config.freeIdx : Nat → Byte

end Sys2Proof
end

