-- ==== Sys2Proof/Machine/State.lean ====
section
/-! DEFINITION. The state of the codec (10_state.md), its events (R64), the uses of its ports, the reasons a step stops, and the reset
state (R36). -/

namespace Sys2Proof.Machine

/-- The values of the frame-position register `st`, in the order of R20: what the NEXT byte is taken as. -/
inductive Pos where
  | start
  | leadin
  | address
  | source
  | command
  | datalen
  | data
  | checksum
deriving DecidableEq, Repr

/-- The two errors of the codec (R64, R140). They are output events, no stops of the model. -/
inductive ErrorKind where
  /-- `PacketTimeout`, alias `FrameTimeout` (R141). -/
  | packetTimeout
  /-- `CorruptPacket`, alias `ChecksumMismatch` (R142). -/
  | corruptPacket
deriving DecidableEq, Repr

/-- The output event of a step (R64). -/
inductive Event where
  | none
  | packet (p : Packet)
  | error (e : ErrorKind)
deriving DecidableEq, Repr

/-- The value last given at a function port or the read port (log 4: the model's own field holds it). -/
inductive PortValue where
  | none
  | byte (b : Byte)
  | bytes (l : List Byte)
  | bit (v : Bool)
deriving DecidableEq, Repr

/-- A use of a combinational port: a function port (R68) or the buffer read port (R67). -/
inductive PortUse where
  | checksum (p : Packet)
  | encode (p : Packet)
  | isResponse (p : Packet)
  | responseRequired (p : Packet)
  | readBuffer (rdIdx : Byte)
deriving DecidableEq, Repr

/-- What the outside world offers next: the word of a cycle (R61), or a use of a port between two clock edges (R151; log 4). -/
inductive Stimulus where
  | word (w : CycleWord)
  | port (u : PortUse)
deriving DecidableEq, Repr

/-- The receive buffer as (index, byte) pairs in canonical form: indices strictly rising, all below 255, no entry 0x00. An unlisted
index reads as 0x00, the reset value R36 gives every entry (log 7). -/
abbrev Memory := List Host.Cell

/-- What an index the list does not name reads as: 0x00, the reset value of every entry (R36). -/
def unlistedByte : Byte := 0

/-- The canonical form from index `lo` on: rising, inside the index space 0..254 of R40, no entry equal to the unlisted byte. -/
def Memory.wfFrom : Nat → Memory → Bool
  | _, [] => true
  | lo, (a, v) :: m => decide (lo ≤ a) && decide (a ≤ 254) && decide (v ≠ unlistedByte) && Memory.wfFrom (a + 1) m

/-- The canonical form of the buffer. -/
def Memory.wf (m : Memory) : Bool := Memory.wfFrom 0 m

/-- The codec's state: the registers of R20 to R29, the event of R64, the parameter of R8, and the model's own fields. -/
structure State where
  /-- The frame-position register (R20). -/
  st : Pos
  /-- The destination byte of the frame in progress (R21). -/
  dst : Byte
  /-- The source byte of the frame in progress (R22). -/
  src : Byte
  /-- The command byte of the frame in progress (R23). -/
  cmd : Byte
  /-- The datalen byte of the frame in progress (R24). -/
  len : Byte
  /-- The number of data bytes already stored (R25). -/
  idx : Byte
  /-- The receive buffer, 255 bytes (R26). -/
  buf : Memory
  /-- The ticks since the timer was last restarted (R27), a natural number as R9 allows (log 9). -/
  elapsed : Nat
  /-- The pin `pkt_valid` (R29). -/
  pktValid : Bool
  /-- The pin `err_valid` (R29). -/
  errValid : Bool
  /-- The pins `err_code` (R29). -/
  errCode : BitVec 2
  /-- The hold register `o_dst` (R29). -/
  oDst : Byte
  /-- The hold register `o_src` (R29). -/
  oSrc : Byte
  /-- The hold register `o_cmd` (R29). -/
  oCmd : Byte
  /-- The hold register `o_len` (R29). -/
  oLen : Byte
  /-- The output event of the last step (R64; log 3). -/
  ev : Event
  /-- The elaboration parameter `T_IB` (R8); no step writes it (R33; log 1). -/
  cfg : Config
  /-- MODEL'S OWN: every event other than `NONE` so far, oldest first (log 3). -/
  log : List Event
  /-- MODEL'S OWN: the value last given at a combinational port (log 4). -/
  fnOut : PortValue
  /-- MODEL'S OWN: what the outside world is known to offer next (log 2). -/
  input : List Stimulus
  /-- MODEL'S OWN: how many free cycle words have been taken (log 2). -/
  envTime : Nat
  /-- MODEL'S OWN: how many free values of `idx` have been taken (log 8). -/
  idxDraws : Nat
deriving DecidableEq, Repr

/-- Why a step ends with a fault: it never does. Every operation is available in every state (R148), and an error of the codec is an output
event (R140), so the type has no constructor. SAFE: nothing raises a fault. -/
inductive Fault where
deriving DecidableEq, Repr

/-- Why an instruction has no meaning. -/
inductive Refusal where
  /-- Raised by exec's arm for an instruction without a meaning yet. SAFE: the model stops. No arm uses it. -/
  | notModelled (mnemonic : String)
  /-- Raised by CHECKSUM, ENCODE, IS_RESPONSE, RESPONSE_REQUIRED and FRAME on an operand with more than 255 data bytes: it is no packet
  (R80, R85). SAFE (log 10): the model stops. -/
  | notAPacket
deriving DecidableEq, Repr

/-- The reset state of R36, with the default parameter of R8. The model's own fields (`ev`, `log`, `fnOut`, `input`, `envTime`,
`idxDraws`) hold the values of log 2, 3, 4 and 8. -/
def State.reset : State :=
  { st := .start, dst := 0, src := 0, cmd := 0, len := 0, idx := 0, buf := [], elapsed := 0,
    pktValid := false, errValid := false, errCode := 0, oDst := 0, oSrc := 0, oCmd := 0, oLen := 0,
    ev := .none, cfg := Config.standard, log := [], fnOut := .none, input := [], envTime := 0, idxDraws := 0 }

end Sys2Proof.Machine
end

