-- ==== Sys2Proof/Machine/Flags.lean ====
section
/-! DEFINITION. The codec has no flags (R32). What stands in their place: the two bits derived from a command byte (R58, R82, R83) and
the values the output pins take for an event (R65, R66). -/

namespace Sys2Proof.Machine

/-- `IS_RESPONSE`: bit 6 of the command byte, `0x40` (R82). -/
def isResponseBit (cmd : Byte) : Bool := cmd.getLsbD 6

/-- `RESPONSE_REQUIRED`: bit 7 of the command byte, `0x80` (R83). -/
def responseRequiredBit (cmd : Byte) : Bool := cmd.getLsbD 7

/-- `code[5:0]`: the low six bits of the command byte (R58). -/
def commandCode (cmd : Byte) : BitVec 6 := cmd.extractLsb' 0 6

/-- The code of an error at the pins (R66). -/
def errorCode : ErrorKind → BitVec 2
  | .packetTimeout => 0b01
  | .corruptPacket => 0b10

/-- `pkt_valid` after a step with this event (R65). -/
def pktValidOf : Event → Bool
  | .none => false
  | .packet _ => true
  | .error _ => false

/-- `err_valid` after a step with this event (R65). -/
def errValidOf : Event → Bool
  | .none => false
  | .packet _ => false
  | .error _ => true

/-- `err_code` after a step with this event (R65). -/
def errCodeOf : Event → BitVec 2
  | .none => 0b00
  | .packet _ => 0b00
  | .error e => errorCode e

/-- A packet hold register: a `PACKET` event loads it, every other event leaves it (R29, R65). -/
def holdOf (ev : Event) (field : Packet → Byte) (old : Byte) : Byte :=
  match ev with
  | .none => old
  | .packet p => field p
  | .error _ => old

/-- What an event adds to the log of events: nothing for `NONE` (log 3). -/
def loggedOf : Event → List Event
  | .none => []
  | .packet p => [.packet p]
  | .error e => [.error e]

end Sys2Proof.Machine
end

