-- ==== Sys2Proof/Machine/Ops.lean ====
section
/-! DEFINITION. The named operations over the buffer and the registers, raising an error (the codec's one kind of exception, R146), and
running several cycles in a row. -/

namespace Sys2Proof.Machine

/-- `buf[i]` (R26). -/
def Memory.read : Memory → Nat → Byte
  | [], _ => unlistedByte
  | (a, v) :: m, i => if a = i then v else Memory.read m i

/-- `buf[i] <- b`, the one-byte write of R12, keeping the canonical form. -/
def Memory.write : Memory → Nat → Byte → Memory
  | [], i, b => if b = unlistedByte then [] else [(i, b)]
  | (a, v) :: m, i, b =>
    if i < a then (if b = unlistedByte then (a, v) :: m else (i, b) :: (a, v) :: m)
    else if i = a then (if b = unlistedByte then m else (i, b) :: m)
    else (a, v) :: Memory.write m i b

/-- `buf[0..n-1]`, empty when `n = 0` (R11, R109). -/
def Memory.readPrefix (m : Memory) (n : Nat) : List Byte := (List.range n).map (Memory.read m)

/-- The 3-bit encoding of `st` (R20). -/
def stCode : Pos → BitVec 3
  | .start => 0b000
  | .leadin => 0b001
  | .address => 0b010
  | .source => 0b011
  | .command => 0b100
  | .datalen => 0b101
  | .data => 0b110
  | .checksum => 0b111

/-- `running(st) := (st >= SOURCE)` under the encoding of R20 (R28). -/
def running (st : Pos) : Bool := decide ((stCode .source).toNat ≤ (stCode st).toNat)

/-- `TW = max(1, ceil(log2(T_IB + 1)))`, the hardware width of `elapsed` (R9). -/
def timerWidth (tIB : Nat) : Nat := max 1 (if tIB = 0 then 0 else Nat.log2 tIB + 1)

/-- The end of a deserializer step with event `ev`: the event is output and the pins take its values (R13, R29, R64, R65). -/
def commit (ev : Event) (s : State) : State :=
  { s with
    ev := ev
    log := s.log ++ loggedOf ev
    pktValid := pktValidOf ev
    errValid := errValidOf ev
    errCode := errCodeOf ev
    oDst := holdOf ev (fun p => p.dst) s.oDst
    oSrc := holdOf ev (fun p => p.src) s.oSrc
    oCmd := holdOf ev (fun p => p.cmd) s.oCmd
    oLen := holdOf ev (fun p => BitVec.ofNat 8 p.data.length) s.oLen }

/-- `st <- START; elapsed <- 0`: the end of a frame, by its checksum byte (R109) or by an error (R146). -/
def toStart (s : State) : State := { s with st := .start, elapsed := 0 }

/-- TAKING AN EXCEPTION: the codec's errors are events. An error saves nothing, changes only `st` and `elapsed`, and transfers control
nowhere (R140, R146). There is no return operation: the next step is an ordinary step from START (R147). -/
def raiseError (e : ErrorKind) (s : State) : State := commit (.error e) (toStart s)

/-- The end of a step whose event is `NONE`: no `emit`, no `raise` (R13). -/
def silent (s : State) : State := commit .none s

/-- Every state element at its reset value (R36, R115). The parameter and the model's own fields are no state elements of the codec and
stay (log 17). -/
def clearState (s : State) : State :=
  { State.reset with
    cfg := s.cfg, log := s.log, fnOut := s.fnOut, input := s.input, envTime := s.envTime, idxDraws := s.idxDraws }

/-- The frame's packet `{dst, src, cmd, buf[0..len-1]}` (R109). -/
def capturedPacket (s : State) : Packet :=
  { dst := s.dst, src := s.src, cmd := s.cmd, data := Memory.readPrefix s.buf s.len.toNat }

/-- The buffer read port: `buf[rd_idx]` when `rd_idx <= 254`, 0x00 when `rd_idx = 255` (R67). -/
def rdData (rdIdx : Byte) (s : State) : Byte :=
  if rdIdx.toNat ≤ 254 then Memory.read s.buf rdIdx.toNat else 0

/-- `buf[idx] <- b` (R108). `buf[255]` does not exist and is never written (R40; log 8). -/
def storeAtIdx (b : Byte) (s : State) : State :=
  if s.idx.toNat ≤ 254 then { s with buf := Memory.write s.buf s.idx.toNat b } else s

/-- `idx <- idx + 1` (R108). From 255 the sum is no value of the register: a free value (R25; log 8). -/
def advanceIdx (s : State) : State :=
  if s.idx.toNat ≤ 254 then { s with idx := s.idx + 1 }
  else { s with idx := Config.freeIdx s.idxDraws, idxDraws := s.idxDraws + 1 }

/-- Go on with `f` from the next state; a fault or a refusal ends the run. -/
def andThen (o : Host.Outcome State Fault Refusal) (f : State → Host.Outcome State Fault Refusal) :
    Host.Outcome State Fault Refusal :=
  match o with
  | .next s => f s
  | .fault r => .fault r
  | .refused r => .refused r

/-- `n` consecutive statements of one kind, one cycle each, none when `n = 0` (R70). -/
def repeatStep (f : State → Host.Outcome State Fault Refusal) : Nat → State → Host.Outcome State Fault Refusal
  | 0, s => .next s
  | n + 1, s => andThen (f s) (repeatStep f n)

end Sys2Proof.Machine
end

