-- ==== Sys2Proof/Machine/Feed.lean ====
section
/-! DEFINITION. FEED: one definition per value of `st` (R102 to R109), and the assembler form FEEDTICK (R69). -/

namespace Sys2Proof.Machine

/-- `FEED b` in START: look for the marker (R102). -/
def feedStart (b : Byte) (s : State) : State :=
  silent { s with st := if b = sync0 then .leadin else s.st }

/-- `FEED b` in LEADIN: check the lead-in (R103). -/
def feedLeadin (b : Byte) (s : State) : State :=
  silent { s with st := if b = sync1 then .address else .start }

/-- `FEED b` in ADDRESS: capture the destination and start the timer (R104). -/
def feedAddress (b : Byte) (s : State) : State :=
  silent { s with dst := b, st := .source, elapsed := 0 }

/-- `FEED b` in SOURCE: capture the source (R105). -/
def feedSource (b : Byte) (s : State) : State :=
  silent { s with src := b, st := .command, elapsed := 0 }

/-- `FEED b` in COMMAND: capture the command (R106). -/
def feedCommand (b : Byte) (s : State) : State :=
  silent { s with cmd := b, st := .datalen, elapsed := 0 }

/-- `FEED b` in DATALEN: capture the data length; 0 goes straight to CHECKSUM (R107). -/
def feedDatalen (b : Byte) (s : State) : State :=
  silent { s with len := b, idx := 0, elapsed := 0, st := if b = 0 then .checksum else .data }

/-- `FEED b` in DATA: store a data byte at the `idx` from before the step (R108). `idx + 1` is natural addition (R11), so from 255 it is
no value of `len` and `st` stays DATA. -/
def feedData (b : Byte) (s : State) : State :=
  silent
    { advanceIdx (storeAtIdx b s) with
      elapsed := 0
      st := if s.idx.toNat + 1 = s.len.toNat then .checksum else .data }

/-- `FEED b` in CHECKSUM: compare the checksum and end the frame (R109). -/
def feedChecksum (b : Byte) (s : State) : State :=
  if b = checksum (capturedPacket s) then commit (.packet (capturedPacket s)) (toStart s)
  else raiseError .corruptPacket s

/-- `FEED b`, dispatched on `st` (R100). -/
def execFeed (b : Byte) (s : State) : Host.Outcome State Fault Refusal :=
  match s.st with
  | .start => .next (feedStart b s)
  | .leadin => .next (feedLeadin b s)
  | .address => .next (feedAddress b s)
  | .source => .next (feedSource b s)
  | .command => .next (feedCommand b s)
  | .datalen => .next (feedDatalen b s)
  | .data => .next (feedData b s)
  | .checksum => .next (feedChecksum b s)

/-- `FEEDTICK b`: a byte and a tick in one cycle. It runs as `FEED b`: the tick is discarded (R62, R69, R145). -/
def execFeedtick (b : Byte) (s : State) : Host.Outcome State Fault Refusal := execFeed b s

end Sys2Proof.Machine
end

