-- ==== Sys2Proof/Machine/Operands.lean ====
section
/-! DEFINITION. The operand forms: a packet operand (R80), refused where it is no packet (R85). The byte operand `w[7:0]` of R63 is
taken from the word in Decode.lean (`feedByte`). -/

namespace Sys2Proof.Machine

/-- Run `f` on a packet operand, or refuse a value with more than 255 data bytes: it is no packet (R80, R85; log 10). -/
def withPacket (p : Packet) (f : Packet → Host.Outcome State Fault Refusal) : Host.Outcome State Fault Refusal :=
  if p.wf then f p else .refused .notAPacket

end Sys2Proof.Machine
end

