-- ==== Sys2Proof/Machine/Ports.lean ====
section
/-! DEFINITION. The combinational ports: CHECKSUM, ENCODE, IS_RESPONSE, RESPONSE_REQUIRED (R68, R81 to R85) and the buffer read port
(R67). A use takes no cycle and changes nothing of the deserializer (R53, R151); its value stands in `fnOut` (log 4). -/

namespace Sys2Proof.Machine

/-- Give a value at a port. -/
def portResult (v : PortValue) (s : State) : Host.Outcome State Fault Refusal := .next { s with fnOut := v }

/-- `CHECKSUM(p)` (R81). -/
def execChecksum (p : Packet) (s : State) : Host.Outcome State Fault Refusal :=
  withPacket p fun q => portResult (.byte (checksum q)) s

/-- `ENCODE(p)` (R84); more than 255 data bytes are refused (R85). -/
def execEncode (p : Packet) (s : State) : Host.Outcome State Fault Refusal :=
  withPacket p fun q => portResult (.bytes (frameOf q)) s

/-- `IS_RESPONSE(p)` (R82). -/
def execIsResponse (p : Packet) (s : State) : Host.Outcome State Fault Refusal :=
  withPacket p fun q => portResult (.bit (isResponseBit q.cmd)) s

/-- `RESPONSE_REQUIRED(p)` (R83). -/
def execResponseRequired (p : Packet) (s : State) : Host.Outcome State Fault Refusal :=
  withPacket p fun q => portResult (.bit (responseRequiredBit q.cmd)) s

/-- A use of a port by the outside world (R67, R68). -/
def usePort (u : PortUse) (s : State) : Host.Outcome State Fault Refusal :=
  match u with
  | .checksum p => execChecksum p s
  | .encode p => execEncode p s
  | .isResponse p => execIsResponse p s
  | .responseRequired p => execResponseRequired p s
  | .readBuffer rdIdx => portResult (.byte (rdData rdIdx s)) s

end Sys2Proof.Machine
end

