-- ==== Sys2Proof/Machine/Timer.lean ====
section
/-! DEFINITION. TICK, IDLE and RESET (R112 to R115). -/

namespace Sys2Proof.Machine

/-- `TICK`: nothing while the timer is stopped (R112); while it runs, count, or time out on the tick that finds `elapsed == T_IB`
(R113, R141). -/
def execTick (s : State) : Host.Outcome State Fault Refusal :=
  if running s.st then
    if s.elapsed = s.cfg.tIB.val then .next (raiseError .packetTimeout s)
    else .next (silent { s with elapsed := s.elapsed + 1 })
  else .next (silent s)

/-- `IDLE`: no input in this cycle (R114). -/
def execIdle (s : State) : Host.Outcome State Fault Refusal := .next (silent s)

/-- `RESET`: every state element takes its reset value, no event is raised (R115, R161). -/
def execReset (s : State) : Host.Outcome State Fault Refusal := .next (silent (clearState s))

end Sys2Proof.Machine
end

