-- ==== Sys2Proof/Machine/Pseudo.lean ====
section
/-! DEFINITION. The pseudo-instructions of R70: each runs its consecutive statements, one cycle each (log 5). -/

namespace Sys2Proof.Machine

/-- One FEED per byte, in order, nothing between them (R116). -/
def feedAll : List Byte → State → Host.Outcome State Fault Refusal
  | [], s => .next s
  | b :: bs, s => andThen (execFeed b s) (feedAll bs)

/-- `FEED b0, ..., bk`, the source's `feed_buffer` (R70, R116). Its result, the events with the NONEs removed, is what `log` gains. -/
def execFeedBuffer (bytes : List Byte) (s : State) : Host.Outcome State Fault Refusal := feedAll bytes s

/-- `TICK n`: n consecutive TICKs (R70). -/
def execTickN (n : Nat) (s : State) : Host.Outcome State Fault Refusal := repeatStep execTick n s

/-- `IDLE n`: n consecutive IDLEs (R70). -/
def execIdleN (n : Nat) (s : State) : Host.Outcome State Fault Refusal := repeatStep execIdle n s

/-- `FRAME d, s, c, [x0..xm]`: FEED of every byte of ENCODE of the packet, in order (R70, R84). -/
def execFrame (dst src cmd : Byte) (data : List Byte) (s : State) : Host.Outcome State Fault Refusal :=
  withPacket { dst := dst, src := src, cmd := cmd, data := data } fun p => feedAll (frameOf p) s

end Sys2Proof.Machine
end

