-- ==== Sys2Proof/Machine/Dispatch.lean ====
section
/-! DEFINITION. One arm per constructor of Instr, each one direct call of the instruction's meaning. -/

namespace Sys2Proof.Machine

def exec (i : Instr) (s : State) : Host.Outcome State Fault Refusal :=
  match i with
  | .reset => Sys2Proof.Machine.execReset s
  | .feed b => Sys2Proof.Machine.execFeed b s
  | .tick => Sys2Proof.Machine.execTick s
  | .idle => Sys2Proof.Machine.execIdle s
  | .checksum p => Sys2Proof.Machine.execChecksum p s
  | .encode p => Sys2Proof.Machine.execEncode p s
  | .isResponse p => Sys2Proof.Machine.execIsResponse p s
  | .responseRequired p => Sys2Proof.Machine.execResponseRequired p s
  | .feedtick b => Sys2Proof.Machine.execFeedtick b s
  | .feedBuffer bytes => Sys2Proof.Machine.execFeedBuffer bytes s
  | .tickN n => Sys2Proof.Machine.execTickN n s
  | .idleN n => Sys2Proof.Machine.execIdleN n s
  | .frame dst src cmd data => Sys2Proof.Machine.execFrame dst src cmd data s

end Sys2Proof.Machine
end

