-- ==== Sys2Proof/Machine/Fetch.lean ====
section
/-! DEFINITION. Where a step's input comes from: the codec fetches nothing (R42); the outside world offers one cycle word per step
(R61). -/

namespace Sys2Proof.Machine

/-- What the outside world offers to this step, and the state with that offer taken: the next known stimulus, or, where none is known, a
free cycle word (log 2). -/
def fetch (s : State) : Stimulus × State :=
  match s.input with
  | [] => (.word (Config.offeredWord s.envTime), { s with envTime := s.envTime + 1 })
  | x :: rest => (x, { s with input := rest })

/-- The stimuli of a sequence of cycle words. -/
def offered (ws : List CycleWord) : List Stimulus := ws.map .word

end Sys2Proof.Machine
end

