-- ==== Sys2Proof/Machine/Step.lean ====
section
/-! DEFINITION. One step of the machine: take what the outside world offers and run it (R100). -/

namespace Sys2Proof.Machine

/-- One step: a cycle word is decoded to its operation and run (R12, R100); a use of a port gives its value (R67, R68). -/
def step (s : State) : Host.Outcome State Fault Refusal :=
  match (fetch s).1 with
  | .word w => exec (decodeWord w) (fetch s).2
  | .port u => usePort u (fetch s).2

/-- The state with the cycle word `w` offered to the next step (log 14: the input has eleven wires). -/
def State.withFetchWord (s : State) (_nbits w : Nat) : State :=
  { s with input := .word (BitVec.ofNat 11 w) :: s.input }

end Sys2Proof.Machine
end

