-- ==== Sys2Proof/Safety.lean ====
section
/-! DEFINITION. The terms statements use: the invariants of R34 and R66, a run of several instructions, a paced frame, the frame check of R86, and which
instructions use a port. -/

namespace Sys2Proof.Machine

/-- The invariant of R34, items 1 to 4, with the canonical form of the buffer (log 7). Item 5 is a statement of its own
(Obligations.DataBytesStoredInArrivalOrder), item 6 too (Obligations.LeftoversNeverShow). -/
abbrev FrameInv (s : State) : Prop :=
  s.elapsed ≤ s.cfg.tIB.val ∧
  (running s.st = false → s.elapsed = 0) ∧
  (s.st = .data → 1 ≤ s.len.toNat ∧ s.idx.toNat < s.len.toNat) ∧
  (s.st = .checksum → s.idx = s.len) ∧
  Memory.wf s.buf = true

/-- The packet the pins show: `{o_dst, o_src, o_cmd, buf[0..o_len-1]}` (R67). -/
def heldPacket (s : State) : Packet :=
  { dst := s.oDst, src := s.oSrc, cmd := s.oCmd, data := Memory.readPrefix s.buf s.oLen.toNat }

/-- The hold registers show the header and the length of the packet of a `PACKET` event (R65). -/
def holdShows (ev : Event) (s : State) : Bool :=
  match ev with
  | .none => true
  | .packet p =>
    s.oDst == p.dst && s.oSrc == p.src && s.oCmd == p.cmd && s.oLen == BitVec.ofNat 8 p.data.length
  | .error _ => true

/-- The pins show the event of the last step (R65). -/
abbrev PinsShowEvent (s : State) : Prop :=
  s.pktValid = pktValidOf s.ev ∧ s.errValid = errValidOf s.ev ∧ s.errCode = errCodeOf s.ev ∧ holdShows s.ev s = true

/-- The instruction is a use of a function port, which takes no cycle (R68). -/
def usesPort : Instr → Bool
  | .reset => false
  | .feed _ => false
  | .tick => false
  | .idle => false
  | .checksum _ => true
  | .encode _ => true
  | .isResponse _ => true
  | .responseRequired _ => true
  | .feedtick _ => false
  | .feedBuffer _ => false
  | .tickN _ => false
  | .idleN _ => false
  | .frame _ _ _ _ => false

/-- The packet operand of a use of a port is a packet (R80). -/
def PortUse.wf : PortUse → Bool
  | .checksum p => p.wf
  | .encode p => p.wf
  | .isResponse p => p.wf
  | .responseRequired p => p.wf
  | .readBuffer _ => true

/-- Run instructions one after the other; a fault or a refusal ends the run. -/
def runAll : List Instr → State → Host.Outcome State Fault Refusal
  | [], s => .next s
  | i :: is, s => andThen (exec i s) (runAll is)

/-- Cycles with no byte: `true` is a TICK, `false` an IDLE. -/
def pauses (gap : List Bool) : List Instr := gap.map fun isTick => if isTick then .tick else .idle

/-- A byte list fed with a gap of byteless cycles before each byte: gap `k` stands before byte `k` (R118). -/
def paced : List (List Bool) → List Byte → List Instr
  | gap :: gaps, b :: bs => pauses gap ++ .feed b :: paced gaps bs
  | _, bs => bs.map .feed

/-- Byte `k` of a byte list, 0 where the list has none. -/
def byteAt (f : List Byte) (k : Nat) : Byte := f.getD k 0

/-- The four conditions of the frame check law on a byte list with data length `n` (R86). -/
def frameCheck (n : Nat) (f : List Byte) : Bool :=
  byteAt f 0 == sync0 && byteAt f 1 == sync1 && (byteAt f 5).toNat == n &&
    byteAt f (6 + n) ==
      BitVec.ofNat 8 ((byteAt f 2).toNat + (byteAt f 3).toNat + (byteAt f 4).toNat + (byteAt f 5).toNat +
        byteSum ((f.drop 6).take n))

/-- The packet a frame of data length `n` carries: `{dst = f[2], src = f[3], cmd = f[4], data = f[6 .. 5+n]}` (R86). -/
def packetOfFrame (n : Nat) (f : List Byte) : Packet :=
  { dst := byteAt f 2, src := byteAt f 3, cmd := byteAt f 4, data := (f.drop 6).take n }

/-- Instructions that are one cycle of the deserializer other than RESET. -/
def isLineCycle : Instr → Bool
  | .reset => false
  | .feed _ => true
  | .tick => true
  | .idle => true
  | .checksum _ => false
  | .encode _ => false
  | .isResponse _ => false
  | .responseRequired _ => false
  | .feedtick _ => true
  | .feedBuffer _ => false
  | .tickN _ => false
  | .idleN _ => false
  | .frame _ _ _ _ => false

/-- The instruction feeds one byte. -/
def isFeed : Instr → Bool
  | .reset => false
  | .feed _ => true
  | .tick => false
  | .idle => false
  | .checksum _ => false
  | .encode _ => false
  | .isResponse _ => false
  | .responseRequired _ => false
  | .feedtick _ => true
  | .feedBuffer _ => false
  | .tickN _ => false
  | .idleN _ => false
  | .frame _ _ _ _ => false

end Sys2Proof.Machine
end

