-- ==== Sys2Proof/Certificates/Slice0/Obligations.lean ====
section
/-! DEFINITION. The statements for the provers, from the spec's numbered rules, cited as R<n>. -/

open Sys2Proof Sys2Proof.Machine

/-! ## The cycle word -/

/-- The ten words of 95_test_vectors.md, table V-W, decode to the operations it lists. -/
def Obligations.SampleCycleWordsDecode : Prop :=
  decodeWord 0x000 = .idle ∧ decodeWord 0x0FF = .idle ∧ decodeWord 0x200 = .tick ∧ decodeWord 0x2AA = .tick ∧
    decodeWord 0x100 = .feed 0x00 ∧ decodeWord 0x1BB = .feed 0xBB ∧ decodeWord 0x3BB = .feed 0xBB ∧
    decodeWord 0x400 = .reset ∧ decodeWord 0x5BB = .reset ∧ decodeWord 0x7FF = .reset

/-- R62: each of the 2048 words matches exactly one of the four rows, the row's operation is what it decodes to, a byte and a tick
together decode to FEED, and no FEED advances `elapsed`. -/
def Obligations.CycleWordsMatchExactlyOneRow : Prop :=
  (∀ w : CycleWord, (decodeRows.filter fun r => r.hits w).length = 1) ∧
    (∀ w : CycleWord, w &&& 0x400 = 0x400 → decodeWord w = .reset) ∧
    (∀ w : CycleWord, w &&& 0x500 = 0x100 → decodeWord w = .feed (w.extractLsb' 0 8)) ∧
    (∀ w : CycleWord, w &&& 0x700 = 0x200 → decodeWord w = .tick) ∧
    (∀ w : CycleWord, w &&& 0x700 = 0x000 → decodeWord w = .idle) ∧
    (∀ w : CycleWord, w.getLsbD 10 = false → w.getLsbD 9 = true → w.getLsbD 8 = true →
      decodeWord w = .feed (w.extractLsb' 0 8)) ∧
    (∀ (b : Byte) (s t : State), exec (.feed b) s = .next t → t.elapsed ≤ s.elapsed)

/-- R63: FEED's operand is `w[7:0]`; in RESET bits 9:0, and in TICK and IDLE bits 7:0, have no effect on the step. -/
def Obligations.IgnoredBitsHaveNoEffect : Prop :=
  (∀ w : CycleWord, w.getLsbD 10 = false → w.getLsbD 8 = true → decodeWord w = .feed (w.extractLsb' 0 8)) ∧
    (∀ (w w' : CycleWord) (s : State) (rest : List Stimulus), w.getLsbD 10 = true → w'.getLsbD 10 = true →
      step { s with input := .word w :: rest } = step { s with input := .word w' :: rest }) ∧
    (∀ (w w' : CycleWord) (s : State) (rest : List Stimulus), w.getLsbD 10 = false → w'.getLsbD 10 = false →
      w.getLsbD 8 = false → w'.getLsbD 8 = false → w.getLsbD 9 = w'.getLsbD 9 →
      step { s with input := .word w :: rest } = step { s with input := .word w' :: rest })

/-- The words an instruction assembles to decode, in order, to the operations it expands to (R69, R70); each operation of the cycle word
comes back from its own word through the decoder of the table's numbering. The words are those of R69. The expansions are those of R70
but for the empty cases, IDLE 0 and a FEED_BUFFER of no bytes: R70 does not spell them out, and that they expand to nothing is the model's
reading (log 5). -/
def Obligations.EncodedWordsDecodeToExpansion : Prop :=
  (∀ i : Instr, i.wf = true → (encode i).map decodeWord = expand i) ∧
    (∀ (i : Instr) (n : Nat) (w : CycleWord), expand i = [i] → encode i = [w] → decodeTableWord n w.toNat = some i) ∧
    encode .reset = [0x400] ∧ encode .tick = [0x200] ∧ encode .idle = [0x000] ∧
    (∀ b : Byte, encode (.feed b) = [0x100 + b.setWidth 11]) ∧
    (∀ b : Byte, encode (.feedtick b) = [0x300 + b.setWidth 11]) ∧
    expand .reset = [.reset] ∧ (∀ b, expand (.feed b) = [.feed b]) ∧ expand .tick = [.tick] ∧ expand .idle = [.idle] ∧
    (∀ b, expand (.feedtick b) = [.feed b]) ∧ (∀ bs, expand (.feedBuffer bs) = bs.map .feed) ∧
    (∀ n, expand (.tickN n) = List.replicate n .tick) ∧ (∀ n, expand (.idleN n) = List.replicate n .idle) ∧
    (∀ p : Packet, expand (.frame p.dst p.src p.cmd p.data) = (frameOf p).map .feed)

/-- The model's choice of log 14: a number is rejected exactly when a bit above bit 10 is set. -/
def Obligations.NumbersAboveElevenBitsRejected : Prop :=
  ∀ n w : Nat, decodeTableWord n w = none ↔ 2048 ≤ w

/-! ## The step -/

/-- R100: the step decodes the word by the priority RESET, FEED, TICK, IDLE and runs that operation, and nothing is left of the word. The
word placed by `withFetchWord` is run exactly. -/
def Obligations.StepRunsDecodedWord : Prop :=
  (∀ w : CycleWord, decodeWord w =
      if w.getLsbD 10 then .reset else if w.getLsbD 8 then .feed (w.extractLsb' 0 8)
      else if w.getLsbD 9 then .tick else .idle) ∧
    (∀ (s : State) (w : CycleWord) (rest : List Stimulus), s.input = .word w :: rest →
      step s = exec (decodeWord w) { s with input := rest }) ∧
    (∀ (s : State) (n w : Nat) (i : Instr), decodeTableWord n w = some i → step (s.withFetchWord n w) = exec i s)

/-- The model's choice of log 4: a use of a port that the outside world offers is answered with the meaning of its row, and takes no
cycle. -/
def Obligations.StepUsesOfferedPort : Prop :=
  ∀ (s : State) (p : Packet) (rest : List Stimulus),
    (s.input = .port (.checksum p) :: rest → step s = exec (.checksum p) { s with input := rest }) ∧
      (s.input = .port (.encode p) :: rest → step s = exec (.encode p) { s with input := rest }) ∧
      (s.input = .port (.isResponse p) :: rest → step s = exec (.isResponse p) { s with input := rest }) ∧
      (s.input = .port (.responseRequired p) :: rest → step s = exec (.responseRequired p) { s with input := rest })

/-- The model's choice of log 2: where no stimulus is known, the step runs a free cycle word and counts it. Holds for every value of
`Config.offeredWord` and of `envTime`. -/
def Obligations.StepTakesFreeWordWhenNoneKnown : Prop :=
  ∀ s : State, s.input = [] →
    step s = exec (decodeWord (Config.offeredWord s.envTime)) { s with envTime := s.envTime + 1 }

/-- Offering the words an instruction assembles to, one a step, ends in the state the instruction's meaning gives (R69, R70: one cycle
each). For the instructions that are cycles of the deserializer: the function ports have no word (R68). IDLE 0 and a FEED_BUFFER of no
bytes, which have no words either and change nothing, are the model's reading (log 5); the offered words are log 2. -/
def Obligations.OfferedProgramRunsInstruction : Prop :=
  ∀ (i : Instr) (s : State), i.wf = true → usesPort i = false →
    Host.Core.run core (encode i).length { s with input := offered (encode i) ++ s.input } = exec i s

/-! ## Reset -/

/-- R36: the reset state. -/
def Obligations.ResetStateRegisters : Prop :=
  State.reset.st = .start ∧ State.reset.dst = 0x00 ∧ State.reset.src = 0x00 ∧ State.reset.cmd = 0x00 ∧
    State.reset.len = 0x00 ∧ State.reset.idx = 0 ∧ (∀ i, i ≤ 254 → Memory.read State.reset.buf i = 0x00) ∧
    State.reset.elapsed = 0 ∧ State.reset.pktValid = false ∧ State.reset.errValid = false ∧ State.reset.errCode = 0b00 ∧
    State.reset.oDst = 0x00 ∧ State.reset.oSrc = 0x00 ∧ State.reset.oCmd = 0x00 ∧ State.reset.oLen = 0x00

/-- R115: RESET, in every state, gives every state element its reset value and the event `NONE`. The parameter and the model's own fields
stay (log 1 to 4). -/
def Obligations.ResetClearsEveryElement : Prop :=
  ∀ s : State, exec .reset s = .next
    { st := .start, dst := 0, src := 0, cmd := 0, len := 0, idx := 0, buf := [], elapsed := 0,
      pktValid := false, errValid := false, errCode := 0, oDst := 0, oSrc := 0, oCmd := 0, oLen := 0, ev := .none,
      cfg := s.cfg, log := s.log, fnOut := s.fnOut, input := s.input, envTime := s.envTime,
      idxDraws := s.idxDraws }

/-- R161: bit 10 requests RESET; held for several cycles it keeps the reset state, no event is raised, and the operation after it runs
from the reset state. -/
def Obligations.HeldResetKeepsResetState : Prop :=
  (∀ w : CycleWord, w.getLsbD 10 = true → decodeWord w = .reset) ∧
    ∀ (n : Nat) (s : State), ∃ t, exec .reset s = .next t ∧ runAll (List.replicate (n + 1) .reset) s = .next t ∧
      t.ev = .none ∧ t.log = s.log ∧ t.st = .start ∧ t.elapsed = 0 ∧
      ∀ i : Instr, runAll (List.replicate (n + 1) .reset ++ [i]) s = exec i t

/-! ## FEED, one statement per state -/

/-- R102. -/
def Obligations.FeedInStartSeeksMarker : Prop :=
  ∀ (b : Byte) (s : State), s.st = .start → exec (.feed b) s = .next
    { s with st := if b = 0xBB then .leadin else .start, ev := .none, pktValid := false, errValid := false, errCode := 0 }

/-- R103. -/
def Obligations.FeedInLeadinChecksLeadin : Prop :=
  ∀ (b : Byte) (s : State), s.st = .leadin → exec (.feed b) s = .next
    { s with st := if b = 0x88 then .address else .start, ev := .none, pktValid := false, errValid := false, errCode := 0 }

/-- R104. -/
def Obligations.FeedInAddressCapturesDestination : Prop :=
  ∀ (b : Byte) (s : State), s.st = .address → exec (.feed b) s = .next
    { s with dst := b, st := .source, elapsed := 0, ev := .none, pktValid := false, errValid := false, errCode := 0 }

/-- R105. -/
def Obligations.FeedInSourceCapturesSource : Prop :=
  ∀ (b : Byte) (s : State), s.st = .source → exec (.feed b) s = .next
    { s with src := b, st := .command, elapsed := 0, ev := .none, pktValid := false, errValid := false, errCode := 0 }

/-- R106. -/
def Obligations.FeedInCommandCapturesCommand : Prop :=
  ∀ (b : Byte) (s : State), s.st = .command → exec (.feed b) s = .next
    { s with cmd := b, st := .datalen, elapsed := 0, ev := .none, pktValid := false, errValid := false, errCode := 0 }

/-- R107. -/
def Obligations.FeedInDatalenCapturesLength : Prop :=
  ∀ (b : Byte) (s : State), s.st = .datalen → exec (.feed b) s = .next
    { s with
      len := b, idx := 0, elapsed := 0, st := if b = 0 then .checksum else .data,
      ev := .none, pktValid := false, errValid := false, errCode := 0 }

/-- R108, with its frame: the entry at `idx` is written, every other entry of the buffer reads as before, and `idx` never goes past `len`.
Every `idx` of an entry that exists (R40) is covered, `idx < len` among them; `idx = 255` is FeedAtMissingEntryWritesNothing. The buffer's
canonical form is part of `FrameInv`. -/
def Obligations.FeedInDataStoresByte : Prop :=
  ∀ (b : Byte) (s : State), s.st = .data → s.idx.toNat ≤ 254 → Memory.wf s.buf = true →
    ∃ m : Memory,
      exec (.feed b) s = .next
        { s with
          buf := m, idx := s.idx + 1, elapsed := 0,
          st := if s.idx.toNat + 1 = s.len.toNat then .checksum else .data,
          ev := .none, pktValid := false, errValid := false, errCode := 0 } ∧
      Memory.read m s.idx.toNat = b ∧ (∀ i, i ≠ s.idx.toNat → Memory.read m i = Memory.read s.buf i) ∧
      Memory.wf m = true ∧ (s.idx + 1).toNat = s.idx.toNat + 1 ∧
      (s.idx.toNat < s.len.toNat → (s.idx + 1).toNat ≤ s.len.toNat)

/-- R109: the checksum is compared with the packet of the frame registers and `buf[0..len-1]`; either way the frame ends. -/
def Obligations.FeedInChecksumEndsFrame : Prop :=
  ∀ (b : Byte) (s : State) (p : Packet), s.st = .checksum →
    p = { dst := s.dst, src := s.src, cmd := s.cmd, data := (List.range s.len.toNat).map (Memory.read s.buf) } →
    (b = checksum p → exec (.feed b) s = .next
      { s with
        st := .start, elapsed := 0, ev := .packet p, log := s.log ++ [.packet p],
        pktValid := true, errValid := false, errCode := 0,
        oDst := s.dst, oSrc := s.src, oCmd := s.cmd, oLen := s.len }) ∧
      (b ≠ checksum p → exec (.feed b) s = .next
        { s with
          st := .start, elapsed := 0, ev := .error .corruptPacket, log := s.log ++ [.error .corruptPacket],
          pktValid := false, errValid := true, errCode := 0b10 })

/-- R69, R62, R145: FEEDTICK runs as FEED of its byte, so a byte on the tick that would have timed the frame out saves the frame; it
completes in every state, as FEED does. -/
def Obligations.FeedtickRunsAsFeed : Prop :=
  (∀ (b : Byte) (s : State), exec (.feedtick b) s = exec (.feed b) s) ∧
    (∀ (b : Byte) (s : State), ∃ t, exec (.feedtick b) s = .next t ∧ t.ev ≠ .error .packetTimeout ∧ t.elapsed ≤ s.elapsed)

/-- The model's reading of log 8: FEED in DATA that finds `idx = 255`, as a power-up without RESET may leave it (R160), has every effect of
R108 but the write: no entry 255 exists (R40). The value of `idx` after it is free: this holds for every value of `Config.freeIdx` and of
`idxDraws`. FEED completes in every state. -/
def Obligations.FeedAtMissingEntryWritesNothing : Prop :=
  (∀ (b : Byte) (s : State), s.st = .data → s.idx.toNat = 255 → exec (.feed b) s = .next
    { s with
      idx := Config.freeIdx s.idxDraws, idxDraws := s.idxDraws + 1, elapsed := 0,
      ev := .none, pktValid := false, errValid := false, errCode := 0 }) ∧
    ∀ (b : Byte) (s : State), ∃ t, exec (.feed b) s = .next t

/-! ## TICK and IDLE -/

/-- R112. -/
def Obligations.TickWhileStoppedChangesNothing : Prop :=
  ∀ s : State, s.st = .start ∨ s.st = .leadin ∨ s.st = .address → exec .tick s = .next
    { s with ev := .none, pktValid := false, errValid := false, errCode := 0 }

/-- R113. -/
def Obligations.TickWhileRunningCountsOrTimesOut : Prop :=
  ∀ s : State, s.st = .source ∨ s.st = .command ∨ s.st = .datalen ∨ s.st = .data ∨ s.st = .checksum →
    (s.elapsed = s.cfg.tIB.val → exec .tick s = .next
      { s with
        st := .start, elapsed := 0, ev := .error .packetTimeout, log := s.log ++ [.error .packetTimeout],
        pktValid := false, errValid := true, errCode := 0b01 }) ∧
      (s.elapsed ≠ s.cfg.tIB.val → exec .tick s = .next
        { s with elapsed := s.elapsed + 1, ev := .none, pktValid := false, errValid := false, errCode := 0 })

/-- R114: IDLE leaves every register; the pins show the event `NONE`. -/
def Obligations.IdleChangesNothing : Prop :=
  ∀ s : State, exec .idle s = .next { s with ev := .none, pktValid := false, errValid := false, errCode := 0 }

/-- R28: the timer runs exactly in SOURCE to CHECKSUM, by the encoding of R20, which gives each of the eight values its own code. -/
def Obligations.TimerRunsFromSourceToChecksum : Prop :=
  (∀ st : Pos, running st = true ↔ st = .source ∨ st = .command ∨ st = .datalen ∨ st = .data ∨ st = .checksum) ∧
    (∀ st : Pos, running st = true ↔ (stCode .source).toNat ≤ (stCode st).toNat) ∧
    (∀ c : BitVec 3, ∃ st : Pos, stCode st = c ∧ ∀ st' : Pos, stCode st' = c → st' = st)

/-- R9, with its derived bound: `TW` is the width that holds 0..T_IB (8 bits for 150, 16 for 65535), and under the invariant `elapsed`
fits it. -/
def Obligations.TimerWidthHoldsElapsed : Prop :=
  timerWidth 0 = 1 ∧ timerWidth 150 = 8 ∧ timerWidth 65535 = 16 ∧
    (∀ t : Nat, 0 < t → 2 ^ (timerWidth t - 1) ≤ t ∧ t < 2 ^ timerWidth t) ∧
    (∀ s : State, FrameInv s → s.elapsed ≤ s.cfg.tIB.val ∧ s.elapsed < 2 ^ timerWidth s.cfg.tIB.val)

/-! ## Events, errors and pins -/

/-- R146, which the spec derives: an error changes only `st` and `elapsed`, beside the event and the pins that report it. -/
def Obligations.ErrorTouchesOnlyPositionAndTimer : Prop :=
  ∀ (w : CycleWord) (s t : State) (e : ErrorKind), exec (decodeWord w) s = .next t → t.ev = .error e →
    t = { s with
      st := .start, elapsed := 0, ev := .error e, log := s.log ++ [.error e],
      pktValid := false, errValid := true, errCode := errorCode e }

/-- R101, which the spec derives, and the causes of R141 and R142: which steps produce which event. -/
def Obligations.EventsByCause : Prop :=
  ∀ (w : CycleWord) (s t : State), exec (decodeWord w) s = .next t →
    (t.ev = .error .packetTimeout ↔
      decodeWord w = .tick ∧ running s.st = true ∧ s.elapsed = s.cfg.tIB.val) ∧
      (t.ev = .error .corruptPacket ↔
        ∃ b, decodeWord w = .feed b ∧ s.st = .checksum ∧ b ≠ checksum (capturedPacket s)) ∧
      (∀ p, t.ev = .packet p ↔
        decodeWord w = .feed (checksum (capturedPacket s)) ∧ s.st = .checksum ∧ p = capturedPacket s)

/-- R143: what raises no error. -/
def Obligations.DroppedInputsRaiseNoError : Prop :=
  (∀ (b : Byte) (s : State), s.st = .start → b ≠ 0xBB → ∃ t, exec (.feed b) s = .next t ∧ t.ev = .none ∧ t.log = s.log) ∧
    (∀ (b : Byte) (s : State), s.st = .leadin → b ≠ 0x88 →
      ∃ t, exec (.feed b) s = .next t ∧ t.ev = .none ∧ t.log = s.log) ∧
    (∀ s : State, ∃ t, exec .reset s = .next t ∧ t.ev = .none ∧ t.log = s.log) ∧
    (∀ s : State, running s.st = false → ∃ t, exec .tick s = .next t ∧ t.ev = .none ∧ t.log = s.log)

/-- R121, a law the spec derives: after every event and after RESET the codec is in START, and a frame is recognised exactly when its 0xBB
arrives in START and the next byte is 0x88. -/
def Obligations.FrameRecognisedOnlyFromStart : Prop :=
  ∀ (w : CycleWord) (s t : State), exec (decodeWord w) s = .next t →
    (t.ev ≠ .none → t.st = .start) ∧ (decodeWord w = .reset → t.st = .start) ∧
      (t.st = .leadin ↔
        (decodeWord w = .feed 0xBB ∧ s.st = .start) ∨ ((decodeWord w = .tick ∨ decodeWord w = .idle) ∧ s.st = .leadin)) ∧
      (t.st = .address ↔
        (decodeWord w = .feed 0x88 ∧ s.st = .leadin) ∨ ((decodeWord w = .tick ∨ decodeWord w = .idle) ∧ s.st = .address))

/-- R65: the pins after a step, by its event. For RESET the hold registers take their reset value (R115). -/
def Obligations.PinsFollowEvent : Prop :=
  ∀ (w : CycleWord) (s t : State), exec (decodeWord w) s = .next t → decodeWord w ≠ .reset →
    (t.ev = .none → t.pktValid = false ∧ t.errValid = false ∧ t.errCode = 0b00 ∧
      t.oDst = s.oDst ∧ t.oSrc = s.oSrc ∧ t.oCmd = s.oCmd ∧ t.oLen = s.oLen) ∧
      (∀ p, t.ev = .packet p → t.pktValid = true ∧ t.errValid = false ∧ t.errCode = 0b00 ∧
        t.oDst = p.dst ∧ t.oSrc = p.src ∧ t.oCmd = p.cmd ∧ t.oLen.toNat = p.data.length) ∧
      (t.ev = .error .packetTimeout → t.pktValid = false ∧ t.errValid = true ∧ t.errCode = 0b01 ∧
        t.oDst = s.oDst ∧ t.oSrc = s.oSrc ∧ t.oCmd = s.oCmd ∧ t.oLen = s.oLen) ∧
      (t.ev = .error .corruptPacket → t.pktValid = false ∧ t.errValid = true ∧ t.errCode = 0b10 ∧
        t.oDst = s.oDst ∧ t.oSrc = s.oSrc ∧ t.oCmd = s.oCmd ∧ t.oLen = s.oLen) ∧
      ¬(t.pktValid = true ∧ t.errValid = true)

/-- Every step of the machine leaves the pins showing the event of the last deserializer step (R65). -/
def Obligations.PinsShowEventAfterEveryStep : Prop :=
  ∀ s t : State, PinsShowEvent s → step s = .next t → PinsShowEvent t

/-- R66: the reset state's pins show its event, and pins that show an event never output the code 0b11, and 0b00 only with no error. -/
def Obligations.ErrorCodesOfThePins : Prop :=
  PinsShowEvent State.reset ∧
    ∀ s : State, PinsShowEvent s → s.errCode ≠ 0b11 ∧ (s.errCode = 0b00 ↔ s.errValid = false) ∧
      (s.errCode = 0b01 ↔ s.ev = .error .packetTimeout) ∧ (s.errCode = 0b10 ↔ s.ev = .error .corruptPacket)

/-! ## The ports -/

/-- R81: CHECKSUM gives the natural sum reduced modulo 256 and leaves everything else. The last clause is R81's own derived sentence: a
running 8-bit accumulator that wraps at each addition gives the same byte. Where the answer stands (`fnOut`) is log 4. -/
def Obligations.ChecksumPortGivesSum : Prop :=
  (∀ (p : Packet) (s : State), p.wf = true → exec (.checksum p) s = .next
    { s with fnOut := .byte (BitVec.ofNat 8
        ((p.dst.toNat + p.src.toNat + p.cmd.toNat + p.data.length + (p.data.map BitVec.toNat).sum) % 256)) }) ∧
    (∀ p : Packet, p.wf = true →
      checksum p = p.data.foldl (fun acc b => acc + b) (p.dst + p.src + p.cmd + BitVec.ofNat 8 p.data.length))

/-- R82 and R83: the two command bits, in both forms the rules give. Where the answer stands (`fnOut`) is log 4. -/
def Obligations.CommandBitPorts : Prop :=
  ∀ (p : Packet) (s : State), p.wf = true →
    exec (.isResponse p) s = .next { s with fnOut := .bit (p.cmd.getLsbD 6) } ∧
      (p.cmd.getLsbD 6 = true ↔ p.cmd &&& 0x40 ≠ 0) ∧
      exec (.responseRequired p) s = .next { s with fnOut := .bit (p.cmd.getLsbD 7) } ∧
      (p.cmd.getLsbD 7 = true ↔ p.cmd &&& 0x80 ≠ 0)

/-- R84: ENCODE gives the frame, `7 + len(data)` bytes, and leaves everything else. Where the answer stands (`fnOut`) is log 4. -/
def Obligations.EncodePortGivesFrame : Prop :=
  ∀ (p : Packet) (s : State), p.wf = true →
    ∃ f : List Byte, exec (.encode p) s = .next { s with fnOut := .bytes f } ∧
      f = [0xBB, 0x88, p.dst, p.src, p.cmd, BitVec.ofNat 8 p.data.length] ++ p.data ++ [checksum p] ∧
      f.length = 7 + p.data.length ∧ (BitVec.ofNat 8 p.data.length).toNat = p.data.length

/-- R85: ENCODE refuses a value with more than 255 data bytes, and runs every other. -/
def Obligations.EncodeRefusesLongData : Prop :=
  ∀ (p : Packet) (s : State),
    (exec (.encode p) s = .refused .notAPacket ↔ 255 < p.data.length) ∧
      ((∃ t, exec (.encode p) s = .next t) ↔ p.data.length ≤ 255)

/-- The model's choice of log 10: the other uses of a packet refuse a value that is no packet (R80). -/
def Obligations.NoPacketNoMeaning : Prop :=
  ∀ (p : Packet) (s : State), 255 < p.data.length →
    exec (.checksum p) s = .refused .notAPacket ∧ exec (.isResponse p) s = .refused .notAPacket ∧
      exec (.responseRequired p) s = .refused .notAPacket ∧
      exec (.frame p.dst p.src p.cmd p.data) s = .refused .notAPacket

/-- R67: the read port, and the packet the pins show: the packet just emitted, until an event `PACKET`, a RESET or a FEED in DATA that
overwrites an entry below `o_len`. That an offered use of the port is a step of its own, which changes only `fnOut` and the input, is the
model's choice (log 4, log 13). -/
def Obligations.ReadPortShowsHeldPacket : Prop :=
  (∀ (i : Byte) (s : State) (rest : List Stimulus), s.input = .port (.readBuffer i) :: rest →
    step s = .next { s with
      input := rest, fnOut := .byte (if i.toNat ≤ 254 then Memory.read s.buf i.toNat else 0x00) }) ∧
    (∀ (w : CycleWord) (s t : State) (p : Packet), exec (decodeWord w) s = .next t → t.ev = .packet p →
      heldPacket t = p) ∧
    (∀ (w : CycleWord) (s t : State), exec (decodeWord w) s = .next t → decodeWord w ≠ .reset →
      (∀ p, t.ev ≠ .packet p) →
      (∀ b, decodeWord w = .feed b → s.st = .data → s.oLen.toNat ≤ s.idx.toNat) → heldPacket t = heldPacket s)

/-- R53, which the spec derives: a use of a function port changes nothing of the deserializer, and its value does not depend on it. -/
def Obligations.PortsLeaveDeserializerAlone : Prop :=
  (∀ (i : Instr) (s t : State), usesPort i = true → exec i s = .next t → { t with fnOut := s.fnOut } = s) ∧
    (∀ (i : Instr) (s t s' t' : State), usesPort i = true → exec i s = .next t → exec i s' = .next t' →
      t.fnOut = t'.fnOut) ∧
    (∀ (u : PortUse) (s t : State), usePort u s = .next t → { t with fnOut := s.fnOut } = s)

/-! ## Laws of the checksum and of the frame -/

/-- R86, a law the spec derives: the frame check. `f` is accepted from START when its last byte emits a packet with all of the frame's `n`
data bytes. -/
def Obligations.FrameCheckLaw : Prop :=
  ∀ (s : State) (f : List Byte) (n : Nat), s.st = .start → Memory.wf s.buf = true → f.length = 7 + n →
    ((∃ q t, q.data.length = n ∧ exec (.feedBuffer f) s = .next t ∧ t.ev = .packet q) ↔ frameCheck n f = true) ∧
      (frameCheck n f = true → f = frameOf (packetOfFrame n f) ∧
        ∃ t, exec (.feedBuffer f) s = .next t ∧ t.ev = .packet (packetOfFrame n f) ∧
          t.log = s.log ++ [.packet (packetOfFrame n f)])

/-- R87, a law the spec derives: a valid frame with exactly one destination, source, command, data or checksum byte replaced by another
value fails the frame check. -/
def Obligations.SingleByteCorruptionFailsCheck : Prop :=
  ∀ (p : Packet) (k : Nat) (c : Byte), p.wf = true → 2 ≤ k → k ≠ 5 → k < 7 + p.data.length →
    (frameOf p)[k]? ≠ some c → frameCheck p.data.length ((frameOf p).set k c) = false

/-- R88, a law the spec derives: the alterations the checksum cannot see, and the rule's example. -/
def Obligations.ChecksumBlindSpots : Prop :=
  (∀ (p : Packet) (d : List Byte), p.data.Perm d → checksum { p with data := d } = checksum p) ∧
    (∀ (p : Packet) (a b c : Byte), [p.dst, p.src, p.cmd].Perm [a, b, c] →
      checksum { p with dst := a, src := b, cmd := c } = checksum p) ∧
    (∀ (p : Packet) (i : Nat) (x : Byte), p.data[i]? = some x →
      checksum { p with dst := x, data := p.data.set i p.dst } = checksum p ∧
        checksum { p with src := x, data := p.data.set i p.src } = checksum p ∧
        checksum { p with cmd := x, data := p.data.set i p.cmd } = checksum p) ∧
    (∀ p q : Packet,
      (p.dst.toNat + p.src.toNat + p.cmd.toNat + p.data.length + byteSum p.data) % 256 =
        (q.dst.toNat + q.src.toNat + q.cmd.toNat + q.data.length + byteSum q.data) % 256 → checksum p = checksum q) ∧
    checksum { dst := 0x01, src := 0x02, cmd := 0x03, data := [0x12, 0x34] } = 0x4E ∧
    checksum { dst := 0x01, src := 0x02, cmd := 0x03, data := [0x34, 0x12] } = 0x4E

/-- R120, first row, a law the spec derives: a frame fed from START with exactly one destination, source, command, data or checksum byte
changed, and with gaps that let no timeout come (as in R118), raises CorruptPacket on its last byte and emits no packet. The second part
says the same of FEED_BUFFER, which leaves no gap. -/
def Obligations.CorruptedFrameRaisesError : Prop :=
  ∀ (s : State) (p : Packet) (k : Nat) (c : Byte), s.st = .start → Memory.wf s.buf = true → p.wf = true →
    2 ≤ k → k ≠ 5 → k < 7 + p.data.length → (frameOf p)[k]? ≠ some c →
    (∀ gaps : List (List Bool), gaps.length = (frameOf p).length →
      (∀ (j : Nat) (gap : List Bool), 3 ≤ j → gaps[j]? = some gap → gap.count true ≤ s.cfg.tIB.val) →
      ∃ t, runAll (paced gaps ((frameOf p).set k c)) s = .next t ∧ t.ev = .error .corruptPacket ∧
        t.log = s.log ++ [.error .corruptPacket] ∧ t.st = .start ∧ t.elapsed = 0) ∧
      ∃ t, exec (.feedBuffer ((frameOf p).set k c)) s = .next t ∧ t.ev = .error .corruptPacket ∧
        t.log = s.log ++ [.error .corruptPacket] ∧ t.st = .start ∧ t.elapsed = 0

/-! ## Frames, runs and the timeout -/

/-- R118, a law the spec derives: the round trip. Gap `k` stands before byte `k` of the frame; the gaps before bytes 3 and later hold at
most `T_IB` ticks. The log gains the one event `PACKET p`, which is the last step's. The second part says the same of FRAME, which leaves
no gap. -/
def Obligations.FramedPacketRoundTrips : Prop :=
  (∀ (p : Packet) (s : State) (gaps : List (List Bool)), p.wf = true → s.st = .start → Memory.wf s.buf = true →
    gaps.length = (frameOf p).length →
    (∀ (k : Nat) (gap : List Bool), 3 ≤ k → gaps[k]? = some gap → gap.count true ≤ s.cfg.tIB.val) →
    ∃ t, runAll (paced gaps (frameOf p)) s = .next t ∧ t.ev = .packet p ∧ t.log = s.log ++ [.packet p] ∧
      t.st = .start ∧ t.elapsed = 0) ∧
    (∀ (p : Packet) (s : State), p.wf = true → s.st = .start → Memory.wf s.buf = true →
      ∃ t, exec (.frame p.dst p.src p.cmd p.data) s = .next t ∧ t.ev = .packet p ∧ t.log = s.log ++ [.packet p] ∧
        t.st = .start ∧ t.elapsed = 0)

/-- The timeout of R113 over a run, as R119 has it for `elapsed = 0`: while the timer runs, the tick that follows `T_IB - elapsed` ticks,
with no byte and any number of IDLEs among them, raises PacketTimeout, and nothing is emitted before. While it is stopped no timeout
comes. -/
def Obligations.TimeoutAfterIdleTicks : Prop :=
  (∀ (s : State) (gap : List Bool), running s.st = true → s.elapsed + gap.count true = s.cfg.tIB.val →
    ∃ u t, runAll (pauses gap) s = .next u ∧ u.st = s.st ∧ u.elapsed = s.cfg.tIB.val ∧ u.log = s.log ∧
      runAll (pauses (gap ++ [true])) s = .next t ∧ t.ev = .error .packetTimeout ∧
      t.log = s.log ++ [.error .packetTimeout] ∧ t.st = .start ∧ t.elapsed = 0) ∧
    (∀ (s : State) (gap : List Bool), running s.st = false →
      ∃ t, runAll (pauses gap) s = .next t ∧ t.st = s.st ∧ t.elapsed = s.elapsed ∧ t.log = s.log)

/-- R70: what `IDLE n` and `TICK n` come to. That `IDLE 0` is nothing at all is the model's reading (log 5): R70 says `none when n = 0` for
`TICK n` only. -/
def Obligations.CountedTicksAndIdles : Prop :=
  ∀ (n : Nat) (s : State),
    exec (.idleN n) s = .next
      (if n = 0 then s else { s with ev := .none, pktValid := false, errValid := false, errCode := 0 }) ∧
      (running s.st = false → exec (.tickN n) s = .next
        (if n = 0 then s else { s with ev := .none, pktValid := false, errValid := false, errCode := 0 })) ∧
      (running s.st = true → s.elapsed + n ≤ s.cfg.tIB.val → exec (.tickN n) s = .next
        (if n = 0 then s else
          { s with elapsed := s.elapsed + n, ev := .none, pktValid := false, errValid := false, errCode := 0 })) ∧
      (running s.st = true → s.elapsed ≤ s.cfg.tIB.val → s.cfg.tIB.val < s.elapsed + n →
        ∃ t, exec (.tickN n) s = .next t ∧ t.st = .start ∧ t.elapsed = 0 ∧ t.log = s.log ++ [.error .packetTimeout])

/-- R70: each pseudo-instruction runs as its expansion into consecutive statements. For IDLE 0 and a FEED_BUFFER of no bytes, whose
expansion R70 does not spell out, the empty expansion is the model's reading (log 5). -/
def Obligations.PseudoInstructionRunsExpansion : Prop :=
  (∀ (bs : List Byte) (s : State), exec (.feedBuffer bs) s = runAll (bs.map .feed) s) ∧
    (∀ (n : Nat) (s : State), exec (.tickN n) s = runAll (List.replicate n .tick) s) ∧
    (∀ (n : Nat) (s : State), exec (.idleN n) s = runAll (List.replicate n .idle) s) ∧
    (∀ (p : Packet) (s : State), p.wf = true →
      exec (.frame p.dst p.src p.cmd p.data) s = runAll ((frameOf p).map .feed) s)

/-- R116: FEED_BUFFER is consecutive FEED steps; each adds its event to the log unless it is `NONE`, so the log gains the events in step
order with the `NONE`s removed; no `PacketTimeout` is among them. R116 speaks of one byte or more: that a buffer of no bytes does nothing is
the model's reading (log 5). -/
def Obligations.FeedBufferCollectsEvents : Prop :=
  (∀ (bs : List Byte) (s : State), exec (.feedBuffer bs) s = runAll (bs.map .feed) s) ∧
    (∀ (b : Byte) (s t : State), exec (.feed b) s = .next t →
      t.log = s.log ++ (if t.ev = .none then [] else [t.ev])) ∧
    (∀ (bs : List Byte) (s : State),
      ∃ t es, exec (.feedBuffer bs) s = .next t ∧ t.log = s.log ++ es ∧ .error .packetTimeout ∉ es ∧ .none ∉ es)

/-- R34 item 5, R43: the data bytes fed after the datalen byte stand in `buf` in arrival order. -/
def Obligations.DataBytesStoredInArrivalOrder : Prop :=
  ∀ (s : State) (n : Byte) (ds : List Byte), s.st = .datalen → Memory.wf s.buf = true → ds.length ≤ n.toNat →
    ∃ t, exec (.feedBuffer (n :: ds)) s = .next t ∧ t.len = n ∧ t.idx.toNat = ds.length ∧
      t.st = (if ds.length = n.toNat then .checksum else .data) ∧
      (∀ (i : Nat) (d : Byte), ds[i]? = some d → Memory.read t.buf i = d) ∧
      (∀ i, ds.length ≤ i → Memory.read t.buf i = Memory.read s.buf i)

/-- R122, a law the spec derives: a running frame ends after at most 259 FEEDs, whatever ticks and idle cycles come among them, or after
at most `T_IB + 1` ticks with no FEED between them, whatever idle cycles come among those; LEADIN ends on any byte but 0x88; ADDRESS stays
until a byte or RESET. FEED_BUFFER and TICK n are the runs of FEEDs alone and of TICKs alone. -/
def Obligations.RunningFrameEnds : Prop :=
  (∀ s : State, FrameInv s → running s.st = true →
    (∀ ops : List Instr, (∀ op ∈ ops, isLineCycle op = true) → 259 ≤ ops.countP isFeed →
      ∃ k t, (ops.take k).countP isFeed ≤ 259 ∧ runAll (ops.take k) s = .next t ∧ t.st = .start) ∧
      (∀ gap : List Bool, s.cfg.tIB.val + 1 ≤ gap.count true →
        ∃ k t, (gap.take k).count true ≤ s.cfg.tIB.val + 1 ∧ runAll (pauses (gap.take k)) s = .next t ∧ t.st = .start) ∧
      (∀ bs : List Byte, bs.length = 259 →
        ∃ k t, k ≤ 259 ∧ exec (.feedBuffer (bs.take k)) s = .next t ∧ t.st = .start) ∧
      (∃ k t, k ≤ s.cfg.tIB.val + 1 ∧ exec (.tickN k) s = .next t ∧ t.st = .start)) ∧
    (∀ (s : State) (b : Byte), s.st = .leadin → b ≠ 0x88 → ∃ t, exec (.feed b) s = .next t ∧ t.st = .start) ∧
    (∀ (s t : State) (w : CycleWord), s.st = .address → exec (decodeWord w) s = .next t → t.st ≠ .address →
      decodeWord w = .reset ∨ ∃ b, decodeWord w = .feed b)

/-- R164, which the spec derives: after the step that emits a packet, entry `i` of its data keeps its byte for at least the next `6 + i`
FEEDs, with any ticks and idle cycles among them. -/
def Obligations.HoldWindowOfEmittedPacket : Prop :=
  ∀ (b : Byte) (s t : State) (p : Packet) (i : Nat) (d : Byte) (ops : List Instr),
    exec (.feed b) s = .next t → t.ev = .packet p → p.data[i]? = some d → (∀ op ∈ ops, isLineCycle op = true) →
    ops.countP isFeed ≤ 6 + i → ∃ u, runAll ops t = .next u ∧ Memory.read u.buf i = d

/-! ## Invariants and whole-machine rules -/

/-- The invariant holds at reset. -/
def Obligations.InvariantHoldsAtReset : Prop := FrameInv State.reset

/-- R34, items 1 to 4, which the spec derives, and the canonical form of the buffer: every step keeps them. -/
def Obligations.InvariantKeptByEveryStep : Prop :=
  ∀ s t : State, FrameInv s → step s = .next t → FrameInv t

/-- R148: every operation is available in every state, and every well-formed instruction completes in every state; so every step completes
unless the outside world gives a port an operand that is no packet. An instruction keeps the invariant. In DATA with `idx = 255` the FEED
that completes is the model's reading (log 8). -/
def Obligations.EveryInstructionCompletes : Prop :=
  (∀ (w : CycleWord) (s : State), ∃ t, exec (decodeWord w) s = .next t) ∧
    (∀ (i : Instr) (s : State), i.wf = true → ∃ t, exec i s = .next t ∧ (FrameInv s → FrameInv t)) ∧
    (∀ s : State, (∀ u rest, s.input = .port u :: rest → u.wf = true) → ∃ t, step s = .next t)

/-- R33: `T_IB` cannot be written at run time. -/
def Obligations.ParameterNeverWritten : Prop :=
  (∀ (i : Instr) (s t : State), exec i s = .next t → t.cfg = s.cfg) ∧
    (∀ s t : State, step s = .next t → t.cfg = s.cfg)

/-- R35 and R34 item 6, which the spec derives: two states in START, LEADIN or ADDRESS that differ in the leftovers cannot be told apart
by the events of any later sequence of cycle words. -/
def Obligations.LeftoversNeverShow : Prop :=
  ∀ (s t : State) (ws : List CycleWord), s.st = t.st → running s.st = false → s.cfg = t.cfg → s.log = t.log →
    Memory.wf s.buf = true → Memory.wf t.buf = true →
    ∃ u v, runAll (ws.map decodeWord) s = .next u ∧ runAll (ws.map decodeWord) t = .next v ∧ u.log = v.log ∧
      u.st = v.st

/-- R21 to R27: which operations write `dst`, `src`, `cmd`, `len`, `idx`, which entry of `buf`, and `elapsed`, and to what. RESET writes
all (R115). What `idx` becomes from 255 in DATA is free (log 8). -/
def Obligations.OnlyNamedOperationsWrite : Prop :=
  ∀ (w : CycleWord) (s t : State), exec (decodeWord w) s = .next t → decodeWord w ≠ .reset →
    (t.dst ≠ s.dst → decodeWord w = .feed t.dst ∧ s.st = .address) ∧
      (t.src ≠ s.src → decodeWord w = .feed t.src ∧ s.st = .source) ∧
      (t.cmd ≠ s.cmd → decodeWord w = .feed t.cmd ∧ s.st = .command) ∧
      (t.len ≠ s.len → decodeWord w = .feed t.len ∧ s.st = .datalen) ∧
      (t.idx ≠ s.idx → ∃ b, decodeWord w = .feed b ∧
        ((s.st = .datalen ∧ t.idx = 0) ∨ (s.st = .data ∧ s.idx.toNat ≤ 254 ∧ t.idx = s.idx + 1) ∨
          (s.st = .data ∧ s.idx.toNat = 255))) ∧
      (∀ j, Memory.read t.buf j ≠ Memory.read s.buf j →
        s.st = .data ∧ j = s.idx.toNat ∧ j ≤ 254 ∧ ∃ b, decodeWord w = .feed b) ∧
      (t.elapsed ≠ s.elapsed →
        ((∃ b, decodeWord w = .feed b) ∧ t.elapsed = 0 ∧ (running s.st = true ∨ s.st = .address)) ∨
          (decodeWord w = .tick ∧ running s.st = true ∧
            t.elapsed = if s.elapsed = s.cfg.tIB.val then 0 else s.elapsed + 1))

/-- The buffer of R26: a byte written at an index 0..254 reads back, every other entry reads as before, and the canonical form stays. -/
def Obligations.BufferReadAfterWrite : Prop :=
  ∀ (m : Memory) (i : Nat) (b : Byte), Memory.wf m = true → i ≤ 254 →
    Memory.read (Memory.write m i b) i = b ∧
      (∀ j, j ≠ i → Memory.read (Memory.write m i b) j = Memory.read m j) ∧
      Memory.wf (Memory.write m i b) = true ∧
      (∀ m' : Memory, Memory.wf m' = true → (∀ j, Memory.read m' j = Memory.read m j) → m' = m)
end

