-- ==== Sys2Proof/Laws/State.lean ====
section
/-! SUPPORT. One lemma per field per named update of State. -/

namespace Sys2Proof.Machine

variable (s : State) (ev : Event) (e : ErrorKind)

/-! The pin values of an event (R65, R66) and what it adds to the log. -/

@[simp] theorem pktValidOf_none : pktValidOf .none = false := rfl
@[simp] theorem pktValidOf_packet (p : Packet) : pktValidOf (.packet p) = true := rfl
@[simp] theorem pktValidOf_error : pktValidOf (.error e) = false := rfl
@[simp] theorem errValidOf_none : errValidOf .none = false := rfl
@[simp] theorem errValidOf_packet (p : Packet) : errValidOf (.packet p) = false := rfl
@[simp] theorem errValidOf_error : errValidOf (.error e) = true := rfl
@[simp] theorem errCodeOf_none : errCodeOf .none = 0 := rfl
@[simp] theorem errCodeOf_packet (p : Packet) : errCodeOf (.packet p) = 0 := rfl
@[simp] theorem errCodeOf_error : errCodeOf (.error e) = errorCode e := rfl
@[simp] theorem holdOf_none (f : Packet → Byte) (b : Byte) : holdOf .none f b = b := rfl
@[simp] theorem holdOf_packet (p : Packet) (f : Packet → Byte) (b : Byte) : holdOf (.packet p) f b = f p := rfl
@[simp] theorem holdOf_error (f : Packet → Byte) (b : Byte) : holdOf (.error e) f b = b := rfl
@[simp] theorem loggedOf_none : loggedOf .none = [] := rfl
@[simp] theorem loggedOf_packet (p : Packet) : loggedOf (.packet p) = [.packet p] := rfl
@[simp] theorem loggedOf_error : loggedOf (.error e) = [.error e] := rfl

/-! `commit`: the end of a step. -/

@[simp] theorem commit_st : (commit ev s).st = s.st := rfl
@[simp] theorem commit_dst : (commit ev s).dst = s.dst := rfl
@[simp] theorem commit_src : (commit ev s).src = s.src := rfl
@[simp] theorem commit_cmd : (commit ev s).cmd = s.cmd := rfl
@[simp] theorem commit_len : (commit ev s).len = s.len := rfl
@[simp] theorem commit_idx : (commit ev s).idx = s.idx := rfl
@[simp] theorem commit_buf : (commit ev s).buf = s.buf := rfl
@[simp] theorem commit_elapsed : (commit ev s).elapsed = s.elapsed := rfl
@[simp] theorem commit_cfg : (commit ev s).cfg = s.cfg := rfl
@[simp] theorem commit_fnOut : (commit ev s).fnOut = s.fnOut := rfl
@[simp] theorem commit_input : (commit ev s).input = s.input := rfl
@[simp] theorem commit_envTime : (commit ev s).envTime = s.envTime := rfl
@[simp] theorem commit_idxDraws : (commit ev s).idxDraws = s.idxDraws := rfl
@[simp] theorem commit_ev : (commit ev s).ev = ev := rfl
@[simp] theorem commit_log : (commit ev s).log = s.log ++ loggedOf ev := rfl
@[simp] theorem commit_pktValid : (commit ev s).pktValid = pktValidOf ev := rfl
@[simp] theorem commit_errValid : (commit ev s).errValid = errValidOf ev := rfl
@[simp] theorem commit_errCode : (commit ev s).errCode = errCodeOf ev := rfl
@[simp] theorem commit_oDst : (commit ev s).oDst = holdOf ev (fun p => p.dst) s.oDst := rfl
@[simp] theorem commit_oSrc : (commit ev s).oSrc = holdOf ev (fun p => p.src) s.oSrc := rfl
@[simp] theorem commit_oCmd : (commit ev s).oCmd = holdOf ev (fun p => p.cmd) s.oCmd := rfl
@[simp] theorem commit_oLen : (commit ev s).oLen = holdOf ev (fun p => BitVec.ofNat 8 p.data.length) s.oLen := rfl

/-! `silent`: the end of a step with the event `NONE`. -/

@[simp] theorem silent_st : (silent s).st = s.st := rfl
@[simp] theorem silent_dst : (silent s).dst = s.dst := rfl
@[simp] theorem silent_src : (silent s).src = s.src := rfl
@[simp] theorem silent_cmd : (silent s).cmd = s.cmd := rfl
@[simp] theorem silent_len : (silent s).len = s.len := rfl
@[simp] theorem silent_idx : (silent s).idx = s.idx := rfl
@[simp] theorem silent_buf : (silent s).buf = s.buf := rfl
@[simp] theorem silent_elapsed : (silent s).elapsed = s.elapsed := rfl
@[simp] theorem silent_oDst : (silent s).oDst = s.oDst := rfl
@[simp] theorem silent_oSrc : (silent s).oSrc = s.oSrc := rfl
@[simp] theorem silent_oCmd : (silent s).oCmd = s.oCmd := rfl
@[simp] theorem silent_oLen : (silent s).oLen = s.oLen := rfl
@[simp] theorem silent_cfg : (silent s).cfg = s.cfg := rfl
@[simp] theorem silent_fnOut : (silent s).fnOut = s.fnOut := rfl
@[simp] theorem silent_input : (silent s).input = s.input := rfl
@[simp] theorem silent_envTime : (silent s).envTime = s.envTime := rfl
@[simp] theorem silent_idxDraws : (silent s).idxDraws = s.idxDraws := rfl
@[simp] theorem silent_ev : (silent s).ev = .none := rfl
@[simp] theorem silent_log : (silent s).log = s.log := List.append_nil s.log
@[simp] theorem silent_pktValid : (silent s).pktValid = false := rfl
@[simp] theorem silent_errValid : (silent s).errValid = false := rfl
@[simp] theorem silent_errCode : (silent s).errCode = 0 := rfl

/-- All a step with the event `NONE` does at its end: the event and the three pins (R65). -/
theorem silent_eq : silent s = { s with ev := .none, pktValid := false, errValid := false, errCode := 0 } := by
  simp [silent, commit, loggedOf, pktValidOf, errValidOf, errCodeOf, holdOf]

/-! `toStart`: the end of a frame. -/

@[simp] theorem toStart_st : (toStart s).st = .start := rfl
@[simp] theorem toStart_dst : (toStart s).dst = s.dst := rfl
@[simp] theorem toStart_src : (toStart s).src = s.src := rfl
@[simp] theorem toStart_cmd : (toStart s).cmd = s.cmd := rfl
@[simp] theorem toStart_len : (toStart s).len = s.len := rfl
@[simp] theorem toStart_idx : (toStart s).idx = s.idx := rfl
@[simp] theorem toStart_buf : (toStart s).buf = s.buf := rfl
@[simp] theorem toStart_elapsed : (toStart s).elapsed = 0 := rfl
@[simp] theorem toStart_pktValid : (toStart s).pktValid = s.pktValid := rfl
@[simp] theorem toStart_errValid : (toStart s).errValid = s.errValid := rfl
@[simp] theorem toStart_errCode : (toStart s).errCode = s.errCode := rfl
@[simp] theorem toStart_oDst : (toStart s).oDst = s.oDst := rfl
@[simp] theorem toStart_oSrc : (toStart s).oSrc = s.oSrc := rfl
@[simp] theorem toStart_oCmd : (toStart s).oCmd = s.oCmd := rfl
@[simp] theorem toStart_oLen : (toStart s).oLen = s.oLen := rfl
@[simp] theorem toStart_ev : (toStart s).ev = s.ev := rfl
@[simp] theorem toStart_cfg : (toStart s).cfg = s.cfg := rfl
@[simp] theorem toStart_log : (toStart s).log = s.log := rfl
@[simp] theorem toStart_fnOut : (toStart s).fnOut = s.fnOut := rfl
@[simp] theorem toStart_input : (toStart s).input = s.input := rfl
@[simp] theorem toStart_envTime : (toStart s).envTime = s.envTime := rfl
@[simp] theorem toStart_idxDraws : (toStart s).idxDraws = s.idxDraws := rfl

/-! `raiseError`: an error event. -/

@[simp] theorem raiseError_st : (raiseError e s).st = .start := rfl
@[simp] theorem raiseError_dst : (raiseError e s).dst = s.dst := rfl
@[simp] theorem raiseError_src : (raiseError e s).src = s.src := rfl
@[simp] theorem raiseError_cmd : (raiseError e s).cmd = s.cmd := rfl
@[simp] theorem raiseError_len : (raiseError e s).len = s.len := rfl
@[simp] theorem raiseError_idx : (raiseError e s).idx = s.idx := rfl
@[simp] theorem raiseError_buf : (raiseError e s).buf = s.buf := rfl
@[simp] theorem raiseError_elapsed : (raiseError e s).elapsed = 0 := rfl
@[simp] theorem raiseError_pktValid : (raiseError e s).pktValid = false := rfl
@[simp] theorem raiseError_errValid : (raiseError e s).errValid = true := rfl
@[simp] theorem raiseError_errCode : (raiseError e s).errCode = errorCode e := rfl
@[simp] theorem raiseError_oDst : (raiseError e s).oDst = s.oDst := rfl
@[simp] theorem raiseError_oSrc : (raiseError e s).oSrc = s.oSrc := rfl
@[simp] theorem raiseError_oCmd : (raiseError e s).oCmd = s.oCmd := rfl
@[simp] theorem raiseError_oLen : (raiseError e s).oLen = s.oLen := rfl
@[simp] theorem raiseError_ev : (raiseError e s).ev = .error e := rfl
@[simp] theorem raiseError_cfg : (raiseError e s).cfg = s.cfg := rfl
@[simp] theorem raiseError_log : (raiseError e s).log = s.log ++ [.error e] := rfl
@[simp] theorem raiseError_fnOut : (raiseError e s).fnOut = s.fnOut := rfl
@[simp] theorem raiseError_input : (raiseError e s).input = s.input := rfl
@[simp] theorem raiseError_envTime : (raiseError e s).envTime = s.envTime := rfl
@[simp] theorem raiseError_idxDraws : (raiseError e s).idxDraws = s.idxDraws := rfl

/-- All an error does (R146). -/
theorem raiseError_eq : raiseError e s =
    { s with
      st := .start, elapsed := 0, ev := .error e, log := s.log ++ [.error e],
      pktValid := false, errValid := true, errCode := errorCode e } := rfl

/-- All the step that emits a packet does (R65, R109). -/
theorem emit_eq (p : Packet) : commit (.packet p) (toStart s) =
    { s with
      st := .start, elapsed := 0, ev := .packet p, log := s.log ++ [.packet p],
      pktValid := true, errValid := false, errCode := 0,
      oDst := p.dst, oSrc := p.src, oCmd := p.cmd, oLen := BitVec.ofNat 8 p.data.length } := rfl

/-! `clearState`: every state element at its reset value. -/

@[simp] theorem clearState_st : (clearState s).st = .start := rfl
@[simp] theorem clearState_dst : (clearState s).dst = 0 := rfl
@[simp] theorem clearState_src : (clearState s).src = 0 := rfl
@[simp] theorem clearState_cmd : (clearState s).cmd = 0 := rfl
@[simp] theorem clearState_len : (clearState s).len = 0 := rfl
@[simp] theorem clearState_idx : (clearState s).idx = 0 := rfl
@[simp] theorem clearState_buf : (clearState s).buf = [] := rfl
@[simp] theorem clearState_elapsed : (clearState s).elapsed = 0 := rfl
@[simp] theorem clearState_pktValid : (clearState s).pktValid = false := rfl
@[simp] theorem clearState_errValid : (clearState s).errValid = false := rfl
@[simp] theorem clearState_errCode : (clearState s).errCode = 0 := rfl
@[simp] theorem clearState_oDst : (clearState s).oDst = 0 := rfl
@[simp] theorem clearState_oSrc : (clearState s).oSrc = 0 := rfl
@[simp] theorem clearState_oCmd : (clearState s).oCmd = 0 := rfl
@[simp] theorem clearState_oLen : (clearState s).oLen = 0 := rfl
@[simp] theorem clearState_ev : (clearState s).ev = .none := rfl
@[simp] theorem clearState_cfg : (clearState s).cfg = s.cfg := rfl
@[simp] theorem clearState_log : (clearState s).log = s.log := rfl
@[simp] theorem clearState_fnOut : (clearState s).fnOut = s.fnOut := rfl
@[simp] theorem clearState_input : (clearState s).input = s.input := rfl
@[simp] theorem clearState_envTime : (clearState s).envTime = s.envTime := rfl
@[simp] theorem clearState_idxDraws : (clearState s).idxDraws = s.idxDraws := rfl

end Sys2Proof.Machine
end

