-- ==== Sys2Proof/Laws/Memory.lean ====
section
/-! SUPPORT. The receive buffer: read after write, a write leaves every other entry alone, and every write keeps the canonical form. -/

namespace Sys2Proof.Machine

theorem Memory.wfFrom_mono {lo hi : Nat} (h : lo ≤ hi) {m : Memory} (hm : Memory.wfFrom hi m = true) :
    Memory.wfFrom lo m = true := by
  cases m with
  | nil => rfl
  | cons c m =>
    simp only [Memory.wfFrom, Bool.and_eq_true, decide_eq_true_eq] at hm ⊢
    exact ⟨⟨⟨Nat.le_trans h hm.1.1.1, hm.1.1.2⟩, hm.1.2⟩, hm.2⟩

/-- Below its first index a canonical buffer lists nothing. -/
theorem Memory.read_below {lo i : Nat} {m : Memory} (hm : Memory.wfFrom lo m = true) (h : i < lo) :
    Memory.read m i = unlistedByte := by
  induction m generalizing lo with
  | nil => rfl
  | cons c m ih =>
    simp only [Memory.wfFrom, Bool.and_eq_true, decide_eq_true_eq] at hm
    have hne : c.1 ≠ i := by omega
    simp only [Memory.read, if_neg hne]
    exact ih hm.2 (by omega)

/-- A write leaves every other entry alone. -/
theorem Memory.read_write_other (m : Memory) {i j : Nat} (b : Byte) (h : j ≠ i) :
    Memory.read (Memory.write m i b) j = Memory.read m j := by
  induction m with
  | nil =>
    simp only [Memory.write]
    split <;> simp [Memory.read, Ne.symm h]
  | cons c m ih =>
    simp only [Memory.write]
    split
    · split <;> simp [Memory.read, Ne.symm h]
    · split
      · next hlt heq =>
        subst heq
        split <;> simp [Memory.read, Ne.symm h]
      · simp only [Memory.read, ih]

/-- An entry reads as the byte written to it. -/
theorem Memory.read_write_same {lo : Nat} {m : Memory} (hm : Memory.wfFrom lo m = true) (i : Nat) (b : Byte) :
    Memory.read (Memory.write m i b) i = b := by
  induction m generalizing lo with
  | nil =>
    simp only [Memory.write]
    split
    · next h => simp [Memory.read, h]
    · simp [Memory.read]
  | cons c m ih =>
    have hm' := hm
    simp only [Memory.wfFrom, Bool.and_eq_true, decide_eq_true_eq] at hm
    simp only [Memory.write]
    split
    · next hlt =>
      split
      · next hb =>
        have hne : c.1 ≠ i := by omega
        simp only [Memory.read, if_neg hne]
        rw [Memory.read_below hm.2 (by omega), hb]
      · simp [Memory.read]
    · split
      · next heq =>
        split
        · next hb => rw [Memory.read_below hm.2 (by omega), hb]
        · simp [Memory.read]
      · next hne =>
        simp only [Memory.read, if_neg (Ne.symm hne)]
        exact ih hm.2

theorem Memory.wfFrom_write {lo i : Nat} {m : Memory} (hm : Memory.wfFrom lo m = true) (hlo : lo ≤ i) (hi : i ≤ 254)
    (b : Byte) : Memory.wfFrom lo (Memory.write m i b) = true := by
  induction m generalizing lo with
  | nil =>
    simp only [Memory.write]
    split
    · rfl
    · next hb => simpa [Memory.wfFrom, hlo, hi] using hb
  | cons c m ih =>
    have hm' := hm
    simp only [Memory.wfFrom, Bool.and_eq_true, decide_eq_true_eq] at hm
    simp only [Memory.write]
    split
    · next hlt =>
      split
      · exact hm'
      · next hb =>
        simp only [Memory.wfFrom, Bool.and_eq_true, decide_eq_true_eq]
        exact ⟨⟨⟨hlo, hi⟩, hb⟩, ⟨⟨⟨hlt, hm.1.1.2⟩, hm.1.2⟩, hm.2⟩⟩
    · split
      · next heq =>
        split
        · exact Memory.wfFrom_mono (by omega) hm.2
        · next hb =>
          simp only [Memory.wfFrom, Bool.and_eq_true, decide_eq_true_eq]
          exact ⟨⟨⟨hlo, hi⟩, hb⟩, heq ▸ hm.2⟩
      · next hge hne =>
        simp only [Memory.wfFrom, Bool.and_eq_true, decide_eq_true_eq]
        exact ⟨⟨⟨hm.1.1.1, hm.1.1.2⟩, hm.1.2⟩, ih hm.2 (by omega)⟩

/-- A write at an index of R40 keeps the canonical form. -/
theorem Memory.wf_write {m : Memory} (hm : Memory.wf m = true) {i : Nat} (hi : i ≤ 254) (b : Byte) :
    Memory.wf (Memory.write m i b) = true :=
  Memory.wfFrom_write hm (Nat.zero_le i) hi b

/-- The reset state's buffer has the canonical form. -/
theorem reset_buf_wf : Memory.wf State.reset.buf = true := rfl

@[simp] theorem Memory.readPrefix_length (m : Memory) (n : Nat) : (Memory.readPrefix m n).length = n := by
  simp [Memory.readPrefix]

theorem Memory.readPrefix_getElem? (m : Memory) {n i : Nat} (h : i < n) :
    (Memory.readPrefix m n)[i]? = some (Memory.read m i) := by
  simp [Memory.readPrefix, h]

theorem Memory.readPrefix_succ (m : Memory) (n : Nat) :
    Memory.readPrefix m (n + 1) = Memory.readPrefix m n ++ [Memory.read m n] := by
  simp [Memory.readPrefix, List.range_succ]

/-- The write of FEED in DATA, where the entry at `idx` exists. -/
theorem storeAtIdx_eq (b : Byte) {s : State} (h : s.idx.toNat ≤ 254) :
    storeAtIdx b s = { s with buf := Memory.write s.buf s.idx.toNat b } := if_pos h

/-- The write of FEED in DATA at index 255: nothing is written (R40). -/
theorem storeAtIdx_none (b : Byte) {s : State} (h : s.idx.toNat = 255) : storeAtIdx b s = s := if_neg (by omega)

/-- The count of FEED in DATA, where it fits the register. -/
theorem advanceIdx_eq {s : State} (h : s.idx.toNat ≤ 254) : advanceIdx s = { s with idx := s.idx + 1 } := if_pos h

/-- The count of FEED in DATA from 255: a free value. -/
theorem advanceIdx_free {s : State} (h : s.idx.toNat = 255) :
    advanceIdx s = { s with idx := Config.freeIdx s.idxDraws, idxDraws := s.idxDraws + 1 } := if_neg (by omega)

end Sys2Proof.Machine
end

