-- ==== Sys2Proof/Laws/Outcome.lean ====
section
/-! SUPPORT. Running several cycles in a row: what `andThen`, `feedAll` and `repeatStep` can answer. -/

namespace Sys2Proof.Machine

variable {o : Host.Outcome State Fault Refusal} {f g : State → Host.Outcome State Fault Refusal} {s t : State}

@[simp] theorem andThen_next : andThen (.next s) f = f s := rfl

@[simp] theorem andThen_fault (r : Fault) : andThen (.fault r) f = .fault r := rfl

@[simp] theorem andThen_refused (r : Refusal) : andThen (.refused r) f = .refused r := rfl

/-- A run answers a next state exactly when its first part does and its second part does from there. -/
theorem andThen_eq_next : andThen o f = .next t ↔ ∃ s, o = .next s ∧ f s = .next t := by
  cases o <;> simp

theorem andThen_assoc : andThen (andThen o f) g = andThen o (fun s => andThen (f s) g) := by
  cases o <;> rfl

@[simp] theorem andThen_next_right : andThen o .next = o := by
  cases o <;> rfl

theorem feedAll_append (as bs : List Byte) (s : State) :
    feedAll (as ++ bs) s = andThen (feedAll as s) (feedAll bs) := by
  induction as generalizing s with
  | nil => rfl
  | cons a as ih =>
    simp only [List.cons_append, feedAll, andThen_assoc]
    congr 1
    funext u
    exact ih u

theorem repeatStep_add (f : State → Host.Outcome State Fault Refusal) (m n : Nat) (s : State) :
    repeatStep f (m + n) s = andThen (repeatStep f m s) (repeatStep f n) := by
  induction m generalizing s with
  | zero => simp [repeatStep]
  | succ m ih =>
    rw [Nat.succ_add]
    simp only [repeatStep, andThen_assoc]
    congr 1
    funext u
    exact ih u

end Sys2Proof.Machine
end

