-- ==== Sys2Proof/Laws/Steps.lean ====
section
/-! SUPPORT. Said once: everything FEED, TICK, IDLE, RESET and a use of a port can answer. -/

namespace Sys2Proof.Machine

variable (b : Byte) (s : State)

theorem execFeed_start (h : s.st = .start) : execFeed b s = .next (feedStart b s) := by simp [execFeed, h]

theorem execFeed_leadin (h : s.st = .leadin) : execFeed b s = .next (feedLeadin b s) := by simp [execFeed, h]

theorem execFeed_address (h : s.st = .address) : execFeed b s = .next (feedAddress b s) := by simp [execFeed, h]

theorem execFeed_source (h : s.st = .source) : execFeed b s = .next (feedSource b s) := by simp [execFeed, h]

theorem execFeed_command (h : s.st = .command) : execFeed b s = .next (feedCommand b s) := by simp [execFeed, h]

theorem execFeed_datalen (h : s.st = .datalen) : execFeed b s = .next (feedDatalen b s) := by simp [execFeed, h]

theorem execFeed_checksum (h : s.st = .checksum) : execFeed b s = .next (feedChecksum b s) := by simp [execFeed, h]

/-- The state after FEED in DATA, where the entry at `idx` exists (R108). -/
theorem execFeed_data (h : s.st = .data) (hi : s.idx.toNat ≤ 254) :
    execFeed b s = .next (silent
      { s with
        buf := Memory.write s.buf s.idx.toNat b
        idx := s.idx + 1
        elapsed := 0
        st := if s.idx.toNat + 1 = s.len.toNat then .checksum else .data }) := by
  simp [execFeed, h, feedData, storeAtIdx_eq b hi, advanceIdx, hi]

/-- The state after FEED in DATA where `idx = 255`: nothing is written, `idx` takes a free value, and `st` stays DATA (R40; log 8). -/
theorem execFeed_data_full (h : s.st = .data) (hi : s.idx.toNat = 255) :
    execFeed b s = .next (silent
      { s with idx := Config.freeIdx s.idxDraws, idxDraws := s.idxDraws + 1, elapsed := 0 }) := by
  have hl : ¬s.idx.toNat + 1 = s.len.toNat := by have := s.len.isLt; omega
  simp only [execFeed, h, feedData, storeAtIdx_none b hi, advanceIdx_free hi, if_neg hl]

/-- The two outcomes of FEED in CHECKSUM (R109). -/
theorem feedChecksum_cases :
    (b = checksum (capturedPacket s) ∧ feedChecksum b s = commit (.packet (capturedPacket s)) (toStart s)) ∨
      (b ≠ checksum (capturedPacket s) ∧ feedChecksum b s = raiseError .corruptPacket s) := by
  unfold feedChecksum
  by_cases h : b = checksum (capturedPacket s)
  · exact .inl ⟨h, if_pos h⟩
  · exact .inr ⟨h, if_neg h⟩

/-- The three outcomes of TICK (R112, R113). -/
theorem execTick_cases :
    (running s.st = false ∧ execTick s = .next (silent s)) ∨
      (running s.st = true ∧ s.elapsed = s.cfg.tIB.val ∧ execTick s = .next (raiseError .packetTimeout s)) ∨
      (running s.st = true ∧ s.elapsed ≠ s.cfg.tIB.val ∧
        execTick s = .next (silent { s with elapsed := s.elapsed + 1 })) := by
  unfold execTick
  by_cases hr : running s.st = true
  · by_cases he : s.elapsed = s.cfg.tIB.val
    · exact .inr (.inl ⟨hr, he, by simp [hr, he]⟩)
    · exact .inr (.inr ⟨hr, he, by simp [hr, he]⟩)
  · exact .inl ⟨by simpa using hr, by simp [hr]⟩

/-- A packet operand is run or refused (R80, R85). -/
theorem withPacket_cases (p : Packet) (f : Packet → Host.Outcome State Fault Refusal) :
    (p.wf = true ∧ withPacket p f = f p) ∨ (p.wf = false ∧ withPacket p f = .refused .notAPacket) := by
  unfold withPacket
  cases h : p.wf <;> simp

/-- FEED writes no field that is the parameter's, a port's or the outside world's. -/
theorem execFeed_keeps {t : State} (h : execFeed b s = .next t) :
    t.cfg = s.cfg ∧ t.fnOut = s.fnOut ∧ t.input = s.input ∧ t.envTime = s.envTime := by
  cases hst : s.st
  case data =>
    by_cases hi : s.idx.toNat ≤ 254
    · rw [execFeed_data b s hst hi] at h
      cases h
      exact ⟨rfl, rfl, rfl, rfl⟩
    · rw [execFeed_data_full b s hst (by have := s.idx.isLt; omega)] at h
      cases h
      exact ⟨rfl, rfl, rfl, rfl⟩
  case checksum =>
    rw [execFeed_checksum b s hst] at h
    cases h
    unfold feedChecksum
    split <;> exact ⟨rfl, rfl, rfl, rfl⟩
  all_goals
    simp only [execFeed, hst] at h
    cases h
    exact ⟨rfl, rfl, rfl, rfl⟩

/-- TICK writes no field that is the parameter's, a port's or the outside world's. -/
theorem execTick_keeps {t : State} (h : execTick s = .next t) :
    t.cfg = s.cfg ∧ t.fnOut = s.fnOut ∧ t.input = s.input ∧ t.envTime = s.envTime := by
  obtain ⟨-, h'⟩ | ⟨-, -, h'⟩ | ⟨-, -, h'⟩ := execTick_cases s <;>
    rw [h'] at h <;> cases h <;> exact ⟨rfl, rfl, rfl, rfl⟩

end Sys2Proof.Machine
end

