-- ==== Sys2Proof/Laws/Decode.lean ====
section
/-! SUPPORT. What a cycle word can decode to, what its step can answer, and that no cycle reads the outside world's queue. -/

namespace Sys2Proof.Machine

/-- A cycle word is one of the four operations (R62). -/
theorem decodeWord_cases (w : CycleWord) :
    decodeWord w = .reset ∨ (∃ b, decodeWord w = .feed b) ∨ decodeWord w = .tick ∨ decodeWord w = .idle := by
  unfold decodeWord
  split
  · exact .inl rfl
  · split
    · exact .inr (.inl ⟨_, rfl⟩)
    · split
      · exact .inr (.inr (.inl rfl))
      · exact .inr (.inr (.inr rfl))

theorem decodeWord_reset {w : CycleWord} (h : w.getLsbD 10 = true) : decodeWord w = .reset := by
  simp [decodeWord, rstBit, h]

/-- Everything a FEED does, by the state it finds (R102 to R109); the last case is DATA with `idx = 255` (log 8). -/
theorem execFeed_next {b : Byte} {s t : State} (h : execFeed b s = .next t) :
    (s.st = .start ∧ t = silent { s with st := if b = sync0 then .leadin else s.st }) ∨
      (s.st = .leadin ∧ t = silent { s with st := if b = sync1 then .address else .start }) ∨
      (s.st = .address ∧ t = silent { s with dst := b, st := .source, elapsed := 0 }) ∨
      (s.st = .source ∧ t = silent { s with src := b, st := .command, elapsed := 0 }) ∨
      (s.st = .command ∧ t = silent { s with cmd := b, st := .datalen, elapsed := 0 }) ∨
      (s.st = .datalen ∧
        t = silent { s with len := b, idx := 0, elapsed := 0, st := if b = 0 then .checksum else .data }) ∨
      (s.st = .data ∧ s.idx.toNat ≤ 254 ∧
        t = silent
          { s with
            buf := Memory.write s.buf s.idx.toNat b
            idx := s.idx + 1
            elapsed := 0
            st := if s.idx.toNat + 1 = s.len.toNat then .checksum else .data }) ∨
      (s.st = .checksum ∧ b = checksum (capturedPacket s) ∧ t = commit (.packet (capturedPacket s)) (toStart s)) ∨
      (s.st = .checksum ∧ b ≠ checksum (capturedPacket s) ∧ t = raiseError .corruptPacket s) ∨
      (s.st = .data ∧ s.idx.toNat = 255 ∧
        t = silent { s with idx := Config.freeIdx s.idxDraws, idxDraws := s.idxDraws + 1, elapsed := 0 }) := by
  have hidx := s.idx.isLt
  cases hst : s.st
  case data =>
    by_cases hi : s.idx.toNat ≤ 254
    · rw [execFeed_data b s hst hi] at h
      cases h
      simp [hi]
    · rw [execFeed_data_full b s hst (by omega)] at h
      cases h
      have h255 : s.idx.toNat = 255 := by omega
      simp [h255, hst]
  case checksum =>
    rw [execFeed_checksum b s hst] at h
    cases h
    obtain ⟨h1, h2⟩ | ⟨h1, h2⟩ := feedChecksum_cases b s
    · simp [← h1, h2]
    · simp [h1, h2]
  all_goals
    simp only [execFeed, hst] at h
    cases h
    simp [feedStart, feedLeadin, feedAddress, feedSource, feedCommand, feedDatalen, hst]

/-- FEED answers a next state in every state (R148). -/
theorem execFeed_completes (b : Byte) (s : State) : ∃ t, execFeed b s = .next t := by
  cases hst : s.st <;> simp [execFeed, hst]

end Sys2Proof.Machine
end

