-- ==== Sys2Proof/Laws/Packet.lean ====
section
/-! SUPPORT. The byte sum, the checksum and the frame of a packet. -/

namespace Sys2Proof.Machine

@[simp] theorem byteSum_nil : byteSum [] = 0 := rfl

@[simp] theorem byteSum_cons (b : Byte) (l : List Byte) : byteSum (b :: l) = b.toNat + byteSum l := by
  simp [byteSum]

@[simp] theorem byteSum_append (l m : List Byte) : byteSum (l ++ m) = byteSum l + byteSum m := by
  simp [byteSum]

/-- The checksum as a number: the natural sum reduced once (R81). -/
theorem checksum_toNat (p : Packet) :
    (checksum p).toNat = (p.dst.toNat + p.src.toNat + p.cmd.toNat + p.data.length + byteSum p.data) % 256 := by
  simp [checksum, BitVec.toNat_ofNat]

/-- A frame is `7 + n` bytes long (R56, R84). -/
@[simp] theorem frameOf_length (p : Packet) : (frameOf p).length = 7 + p.data.length := by
  simp [frameOf]
  omega

/-- A packet's length fits its datalen byte (R5). -/
theorem Packet.datalen_toNat {p : Packet} (h : p.wf = true) : (BitVec.ofNat 8 p.data.length).toNat = p.data.length := by
  simp only [Packet.wf, decide_eq_true_eq] at h
  simp only [BitVec.toNat_ofNat]
  omega

end Sys2Proof.Machine
end

