-- ==== Sys2Proof/Laws/PerInstr.lean ====
section
/-! SUPPORT. The family CycleCount: how many cycle words each instruction assembles to (R68 to R70, R56). -/

namespace Sys2Proof.Laws.CycleCount

open Sys2Proof

/-- The cycles an instruction takes: one per statement of its expansion, none for a function port. -/
def cycles : Instr → Nat
  | .reset => 1
  | .feed _ => 1
  | .tick => 1
  | .idle => 1
  | .checksum _ => 0
  | .encode _ => 0
  | .isResponse _ => 0
  | .responseRequired _ => 0
  | .feedtick _ => 1
  | .feedBuffer bytes => bytes.length
  | .tickN n => n
  | .idleN n => n
  | .frame _ _ _ data => 7 + data.length

/-- The assembler gives the instruction that many words, and its expansion that many operations. -/
def Statement (i : Instr) : Prop := (encode i).length = cycles i ∧ (expand i).length = cycles i

theorem reset : Statement .reset := ⟨rfl, rfl⟩

theorem feed (b : Byte) : Statement (.feed b) := ⟨rfl, rfl⟩

theorem tick : Statement .tick := ⟨rfl, rfl⟩

theorem idle : Statement .idle := ⟨rfl, rfl⟩

theorem checksum (p : Packet) : Statement (.checksum p) := ⟨rfl, rfl⟩

theorem encode (p : Packet) : Statement (.encode p) := ⟨rfl, rfl⟩

theorem isResponse (p : Packet) : Statement (.isResponse p) := ⟨rfl, rfl⟩

theorem responseRequired (p : Packet) : Statement (.responseRequired p) := ⟨rfl, rfl⟩

theorem feedtick (b : Byte) : Statement (.feedtick b) := ⟨rfl, rfl⟩

theorem feedBuffer (bytes : List Byte) : Statement (.feedBuffer bytes) :=
  ⟨List.length_map .., List.length_map ..⟩

theorem tickN (n : Nat) : Statement (.tickN n) := ⟨List.length_replicate .., List.length_replicate ..⟩

theorem idleN (n : Nat) : Statement (.idleN n) := ⟨List.length_replicate .., List.length_replicate ..⟩

theorem frame (dst src cmd : Byte) (data : List Byte) : Statement (.frame dst src cmd data) := by
  simp [Statement, Sys2Proof.encode, expand, cycles]

end Sys2Proof.Laws.CycleCount
end

