-- ==== Sys2Proof/Machine/Commands.lean ====
section
/-! DEFINITION. The bus command codes of R71, for reference: the codec carries the command byte and does not interpret it (R59). No meaning
uses this file; the tests write real frames with it. -/

namespace Sys2Proof.Machine

/-- The bus commands of R71, in its order. `busReset` is the command code `RESET = 1`, which does not reset the codec (R162). -/
inductive BusCommand where
  | busReset | setAddress | setName | setGroup | setConfig | backlightLevel | backlightPower | ledLevel | ledPower | setText
  | zeroStepper | stepperTarget | servoValue | servoSetConfig | stepperSetConfig
  | info | getConfig | servoGetConfig | stepperGetConfig | poll
deriving DecidableEq, Repr

/-- The request code of a command (R71, decimal as the source gives it). -/
def requestCode : BusCommand → Byte
  | .busReset => 1
  | .setAddress => 3
  | .setName => 4
  | .setGroup => 5
  | .setConfig => 7
  | .backlightLevel => 8
  | .backlightPower => 9
  | .ledLevel => 10
  | .ledPower => 11
  | .setText => 12
  | .zeroStepper => 13
  | .stepperTarget => 14
  | .servoValue => 15
  | .servoSetConfig => 16
  | .stepperSetConfig => 18
  | .info => 130
  | .getConfig => 134
  | .servoGetConfig => 145
  | .stepperGetConfig => 147
  | .poll => 191

/-- The response code of a command that has one (R71). -/
def responseCode : BusCommand → Option Byte
  | .busReset => none
  | .setAddress => none
  | .setName => none
  | .setGroup => none
  | .setConfig => none
  | .backlightLevel => none
  | .backlightPower => none
  | .ledLevel => none
  | .ledPower => none
  | .setText => none
  | .zeroStepper => none
  | .stepperTarget => none
  | .servoValue => none
  | .servoSetConfig => none
  | .stepperSetConfig => none
  | .info => some 66
  | .getConfig => some 70
  | .servoGetConfig => some 81
  | .stepperGetConfig => some 83
  | .poll => some 127

end Sys2Proof.Machine
end

