-- ==== Sys2Proof/Tests/Slice0.lean ====
section
/-! SUPPORT. The model's own tests: the WellFormed smoke, words and steps taken from spec/95_test_vectors.md (each names its table and row),
and one witness for the hypotheses of every statement that has them. -/

namespace Sys2Proof.Tests

open Sys2Proof Sys2Proof.Machine

/-! ## Helpers -/

/-- The next state of an outcome, if there is one. -/
def nextOf : Host.Outcome State Fault Refusal → Option State
  | .next t => some t
  | .fault _ => none
  | .refused _ => none

/-- The refusal of an outcome, if it is one. -/
def refusalOf : Host.Outcome State Fault Refusal → Option Refusal
  | .next _ => none
  | .fault _ => none
  | .refused r => some r

/-- What a test reads of a next state: `st`, `elapsed` and the event. -/
def seen (o : Host.Outcome State Fault Refusal) : Option (Pos × Nat × Event) := (nextOf o).map fun t => (t.st, t.elapsed, t.ev)

/-- The reset state, in another position and with another timer count. -/
def inPos (st : Pos) (elapsed : Nat) : State := { State.reset with st := st, elapsed := elapsed }

/-- The same with `T_IB = 3`, as V-T rows 8 to 12 have it. -/
def shortPos (st : Pos) (elapsed : Nat) : State := { inPos st elapsed with cfg := { tIB := 3 } }

/-- The state before V-D row 15: the POLL request awaits its checksum. -/
def pollRequest : State := { inPos .checksum 0 with dst := 0x05, src := 0x00, cmd := 0xBF }

/-- The state before V-D row 18: the POLL response awaits its checksum. -/
def pollResponse : State :=
  { inPos .checksum 0 with
    dst := 0x00, src := 0x05, cmd := 0x7F, len := 3, idx := 3, buf := [(0, 0x05), (1, 0x12), (2, 0x34)] }

/-- The packet of the POLL request (V-C row 2). -/
def pollPacket : Packet := { dst := 0x05, src := 0x00, cmd := 0xBF, data := [] }

/-- The packet of the POLL response (V-C row 3). -/
def answerPacket : Packet := { dst := 0x00, src := 0x05, cmd := 0x7F, data := [0x05, 0x12, 0x34] }

/-- `n` zero bytes from node 1 to node 2, command 3. -/
def longPacket (n : Nat) : Packet := { dst := 0x01, src := 0x02, cmd := 0x03, data := List.replicate n 0 }

/-! ## WellFormed: an ill-formed term for each check -/

theorem test_wf_packet : (longPacket 255).wf = true ∧ (longPacket 256).wf = false := by
  simp [-List.reduceReplicate, Packet.wf, longPacket]

theorem test_wf_checksum : (Instr.checksum (longPacket 256)).wf = false := by
  simp [-List.reduceReplicate, Instr.wf, Packet.wf, longPacket]

theorem test_wf_encode : (Instr.encode (longPacket 256)).wf = false := by
  simp [-List.reduceReplicate, Instr.wf, Packet.wf, longPacket]

theorem test_wf_is_response : (Instr.isResponse (longPacket 256)).wf = false := by
  simp [-List.reduceReplicate, Instr.wf, Packet.wf, longPacket]

theorem test_wf_response_required : (Instr.responseRequired (longPacket 256)).wf = false := by
  simp [-List.reduceReplicate, Instr.wf, Packet.wf, longPacket]

theorem test_wf_frame : (Instr.frame 1 2 3 (List.replicate 256 0)).wf = false := by
  simp [-List.reduceReplicate, Instr.wf, Packet.wf]

theorem test_wf_accepts : (Instr.frame 1 2 3 (List.replicate 255 0)).wf = true ∧ (Instr.tickN 1000).wf = true := by
  simp [-List.reduceReplicate, Instr.wf, Packet.wf]

/-! ## Decode: words of V-W, written bit by bit as rst, tick, in_valid, in_data -/

theorem test_decode_idle : decodeTableWord 16 0b00000000000 = some .idle ∧ decodeTableWord 16 0b00011111111 = some .idle := by decide

theorem test_decode_tick : decodeTableWord 16 0b01000000000 = some .tick ∧ decodeTableWord 16 0b01010101010 = some .tick := by decide

theorem test_decode_feed :
    decodeTableWord 16 0b00100000000 = some (.feed 0x00) ∧ decodeTableWord 16 0b00110111011 = some (.feed 0xBB) := by decide

theorem test_decode_feed_with_tick : decodeTableWord 16 0b01110111011 = some (.feed 0xBB) := by decide

theorem test_decode_reset :
    decodeTableWord 16 0b10000000000 = some .reset ∧ decodeTableWord 16 0b10110111011 = some .reset ∧
      decodeTableWord 16 0b11111111111 = some .reset := by decide

/-- Bit 11 is no wire of the input (R61; log 14). -/
theorem test_decode_bit_eleven : decodeTableWord 16 0b100000000000 = none ∧ decode 0x800 = .error .bitAboveTen := by
  exact ⟨by decide, rfl⟩

/-- The words R69 gives: RESET 0x400, FEED 0x1BB, TICK 0x200, IDLE 0x000, FEEDTICK 0x37F (program P3 row 21). -/
theorem test_encode_words :
    encode .reset = [0x400] ∧ encode (.feed 0xBB) = [0x1BB] ∧ encode .tick = [0x200] ∧ encode .idle = [0x000] ∧
      encode (.feedtick 0x7F) = [0x37F] := by decide

/-- The words of the POLL request, program P1 rows 1 to 7. -/
theorem test_encode_frame :
    encode (.frame 0x05 0x00 0xBF []) = [0x1BB, 0x188, 0x105, 0x100, 0x1BF, 0x100, 0x1C4] := by decide

theorem test_encode_counted : encode (.tickN 2) = [0x200, 0x200] ∧ encode (.idleN 3) = [0x000, 0x000, 0x000] := by decide

theorem test_encode_feed_buffer : encode (.feedBuffer [0xBB, 0x88]) = [0x1BB, 0x188] ∧ encode (.encode pollPacket) = [] := by decide

/-- A word placed by `withFetchWord` runs as the first operation from reset: `0x1BB` is FEED 0xBB, V-D row 1. -/
theorem test_first_word : seen (step (State.reset.withFetchWord 16 0x1BB)) = some (.leadin, 0, .none) := by decide

/-! ## FEED, one step per state (V-D) -/

theorem test_feed_start :
    seen (exec (.feed 0xBB) (inPos .start 0)) = some (.leadin, 0, .none) ∧
      seen (exec (.feed 0x88) (inPos .start 0)) = some (.start, 0, .none) := by decide

theorem test_feed_leadin :
    seen (exec (.feed 0x88) (inPos .leadin 0)) = some (.address, 0, .none) ∧
      seen (exec (.feed 0xBB) (inPos .leadin 0)) = some (.start, 0, .none) := by decide

theorem test_feed_address : (nextOf (exec (.feed 0xBB) (inPos .address 0))).map (fun t => (t.st, t.dst, t.elapsed)) =
    some (.source, 0xBB, 0) := by decide

theorem test_feed_source : (nextOf (exec (.feed 0x00) (inPos .source 150))).map (fun t => (t.st, t.src, t.elapsed)) =
    some (.command, 0x00, 0) := by decide

theorem test_feed_command : (nextOf (exec (.feed 0xFF) (inPos .command 0))).map (fun t => (t.st, t.cmd)) =
    some (.datalen, 0xFF) := by decide

theorem test_feed_datalen :
    (nextOf (exec (.feed 0x00) (inPos .datalen 0))).map (fun t => (t.st, t.len, t.idx)) = some (.checksum, 0, 0) ∧
      (nextOf (exec (.feed 0xFF) (inPos .datalen 0))).map (fun t => (t.st, t.len, t.idx)) = some (.data, 255, 0) := by decide

/-- V-D rows 12 and 13. -/
theorem test_feed_data :
    (nextOf (exec (.feed 0xBB) { inPos .data 0 with len := 3 })).map (fun t => (t.st, t.idx, Memory.read t.buf 0)) =
        some (.data, 1, 0xBB) ∧
      (nextOf (exec (.feed 0x03) { inPos .data 0 with len := 3, idx := 2 })).map (fun t => (t.st, t.idx, Memory.read t.buf 2)) =
        some (.checksum, 3, 0x03) := by decide

/-- V-D row 14. -/
theorem test_feed_data_last_entry :
    (nextOf (exec (.feed 0x7E) { inPos .data 0 with len := 255, idx := 254 })).map
      (fun t => (t.st, t.idx, Memory.read t.buf 254)) = some (.checksum, 255, 0x7E) := by decide

/-- V-D rows 15 to 17. -/
theorem test_feed_checksum :
    seen (exec (.feed 0xC4) pollRequest) = some (.start, 0, .packet pollPacket) ∧
      seen (exec (.feed 0xC5) pollRequest) = some (.start, 0, .error .corruptPacket) ∧
      seen (exec (.feed 0xBB) pollRequest) = some (.start, 0, .error .corruptPacket) := by decide

/-- V-D row 18, with the pins of R65. -/
theorem test_feed_checksum_with_data :
    seen (exec (.feed 0xD2) pollResponse) = some (.start, 0, .packet answerPacket) ∧
      (nextOf (exec (.feed 0xD2) pollResponse)).map (fun t => (t.pktValid, t.oSrc, t.oCmd, t.oLen)) =
        some (true, 0x05, 0x7F, 0x03) := by decide

/-- `buf[255]` does not exist and is never written (R40), and the rest of R108 happens (log 8). -/
theorem test_feed_missing_entry :
    (nextOf (exec (.feed 0x07) { inPos .data 40 with len := 255, idx := 255, buf := [(254, 0x34)] })).map
      (fun t => (t.st, t.elapsed, Memory.read t.buf 254, Memory.read t.buf 255)) = some (.data, 0, 0x34, 0x00) := by decide

/-- V-T row 10: the byte wins over the tick that would have timed out. -/
theorem test_feedtick : seen (exec (.feedtick 0x00) (shortPos .source 3)) = some (.command, 0, .none) := by decide

/-! ## TICK, IDLE, RESET (V-T, V-R) -/

/-- V-T rows 1 to 3, for one TICK. -/
theorem test_tick_stopped :
    seen (exec .tick (inPos .start 0)) = some (.start, 0, .none) ∧ seen (exec .tick (inPos .leadin 0)) = some (.leadin, 0, .none) ∧
      seen (exec .tick (inPos .address 0)) = some (.address, 0, .none) := by decide

/-- V-T rows 7 to 9. -/
theorem test_tick_running :
    seen (exec .tick { inPos .data 0 with cfg := { tIB := 0 } }) = some (.start, 0, .error .packetTimeout) ∧
      seen (exec .tick (shortPos .datalen 2)) = some (.datalen, 3, .none) ∧
      seen (exec .tick (shortPos .datalen 3)) = some (.start, 0, .error .packetTimeout) := by decide

/-- V-T row 11. -/
theorem test_idle : seen (exec .idle (shortPos .source 3)) = some (.source, 3, .none) := by decide

/-- V-R row 1: every register back at R36's value. -/
theorem test_reset : nextOf (exec .reset { pollResponse with st := .data, idx := 2, elapsed := 40, oDst := 7, pktValid := true }) =
    some State.reset := by decide

/-- V-R row 3 and V-T row 12: the words 0x5C4 and 0x600 reset. -/
theorem test_reset_wins :
    seen (step (pollRequest.withFetchWord 16 0x5C4)) = some (.start, 0, .none) ∧
      seen (step ((shortPos .source 3).withFetchWord 16 0x600)) = some (.start, 0, .none) := by decide

/-! ## The ports (V-C, V-F, V-E) -/

/-- V-C rows 2, 4, 5 and 9. -/
theorem test_checksum :
    checksum pollPacket = 0xC4 ∧ checksum { dst := 0xFF, src := 0xFF, cmd := 0xFF, data := [0xFF] } = 0xFD ∧
      checksum { dst := 0x80, src := 0x80, cmd := 0x00, data := [] } = 0x00 ∧
      checksum { dst := 0xBB, src := 0x88, cmd := 0xBB, data := [0x88] } = 0x87 := by decide

/-- V-C row 3, at the port; V-C row 6, 255 zero bytes. -/
theorem test_checksum_port :
    (nextOf (exec (.checksum answerPacket) State.reset)).map (fun t => t.fnOut) = some (.byte 0xD2) ∧
      checksum { dst := 0, src := 0, cmd := 0, data := List.replicate 255 0 } = 0xFF := by
  exact ⟨by decide, by simp [-List.reduceReplicate, checksum, byteSum]⟩

/-- V-F, the rows 3F, 40, 80 and C0. -/
theorem test_is_response :
    isResponseBit 0x3F = false ∧ isResponseBit 0x40 = true ∧ isResponseBit 0x80 = false ∧ isResponseBit 0xC0 = true ∧
      (nextOf (exec (.isResponse answerPacket) State.reset)).map (fun t => t.fnOut) = some (.bit true) := by decide

theorem test_response_required :
    responseRequiredBit 0x3F = false ∧ responseRequiredBit 0x40 = false ∧ responseRequiredBit 0x80 = true ∧
      responseRequiredBit 0xC0 = true ∧
      (nextOf (exec (.responseRequired answerPacket) State.reset)).map (fun t => t.fnOut) = some (.bit false) := by decide

/-- V-E row 3: marker bytes in fields are sent unchanged. -/
theorem test_encode_port :
    (nextOf (exec (.encode { dst := 0xBB, src := 0x88, cmd := 0x88, data := [0xBB, 0x88] }) State.reset)).map (fun t => t.fnOut) =
      some (.bytes [0xBB, 0x88, 0xBB, 0x88, 0x88, 0x02, 0xBB, 0x88, 0x10]) := by decide

/-- 2.3: ENCODE of a 256-byte data list is refused (R85). -/
theorem test_encode_refuses : refusalOf (exec (.encode (longPacket 256)) State.reset) = some .notAPacket := by
  simp [-List.reduceReplicate, exec, execEncode, withPacket, Packet.wf, longPacket, refusalOf]

/-- R67: the read port at an entry and at index 255. -/
theorem test_read_port : rdData 1 pollResponse = 0x12 ∧ rdData 255 pollResponse = 0x00 := by decide

/-! ## Pseudo-instructions -/

/-- The first two bytes of a frame: V-D rows 1 and 4. -/
theorem test_feed_buffer : seen (exec (.feedBuffer [0xBB, 0x88]) State.reset) = some (.address, 0, .none) := by decide

/-- V-E row 1 fed as a frame: one PACKET event (W2). -/
theorem test_frame :
    (nextOf (exec (.frame 0x05 0x00 0xBF []) State.reset)).map (fun t => t.log) = some [.packet pollPacket] := by decide

/-- V-T row 6: two ticks from `elapsed = 149` time out. -/
theorem test_tick_n : (nextOf (exec (.tickN 2) (inPos .checksum 149))).map (fun t => (t.st, t.log)) =
    some (.start, [.error .packetTimeout]) := by decide

/-- IDLE 0 and a FEED_BUFFER of no bytes change nothing, the event of the last step included (the model's reading, log 5). -/
theorem test_empty_expansions :
    nextOf (exec (.idleN 0) { pollRequest with ev := .packet pollPacket }) = some { pollRequest with ev := .packet pollPacket } ∧
      nextOf (exec (.feedBuffer []) { pollRequest with ev := .packet pollPacket }) =
        some { pollRequest with ev := .packet pollPacket } := by decide

theorem test_idle_n : seen (exec (.idleN 2) (shortPos .source 3)) = some (.source, 3, .none) := by decide

/-- R71: a response code is its request code with both top bits inverted. -/
theorem test_bus_commands :
    requestCode .poll = 0xBF ∧ responseCode .poll = some (requestCode .poll ^^^ 0xC0) ∧
      responseCode .info = some (requestCode .info ^^^ 0xC0) ∧ responseCode .getConfig = some (requestCode .getConfig ^^^ 0xC0) := by
  decide

/-! ## Witnesses: the hypotheses of each statement are met together -/

/-- CycleWordsMatchExactlyOneRow: the smallest and the largest word of each row, and a FEED that goes on. -/
theorem witness_CycleWordsMatchExactlyOneRow :
    (0x400 : CycleWord) &&& 0x400 = 0x400 ∧ (0x7FF : CycleWord) &&& 0x400 = 0x400 ∧
      (0x100 : CycleWord) &&& 0x500 = 0x100 ∧ (0x3FF : CycleWord) &&& 0x500 = 0x100 ∧
      (0x200 : CycleWord) &&& 0x700 = 0x200 ∧ (0x2FF : CycleWord) &&& 0x700 = 0x200 ∧
      (0x000 : CycleWord) &&& 0x700 = 0x000 ∧ (0x0FF : CycleWord) &&& 0x700 = 0x000 ∧
      (0x300 : CycleWord).getLsbD 10 = false ∧ (0x300 : CycleWord).getLsbD 9 = true ∧ (0x300 : CycleWord).getLsbD 8 = true ∧
      (nextOf (exec (.feed 0) (inPos .source 150))).isSome = true := by decide

theorem witness_IgnoredBitsHaveNoEffect :
    ((0x100 : CycleWord).getLsbD 10 = false ∧ (0x100 : CycleWord).getLsbD 8 = true) ∧
      ((0x400 : CycleWord).getLsbD 10 = true ∧ (0x7FF : CycleWord).getLsbD 10 = true) ∧
      ((0x200 : CycleWord).getLsbD 10 = false ∧ (0x2FF : CycleWord).getLsbD 10 = false ∧
        (0x200 : CycleWord).getLsbD 8 = false ∧ (0x2FF : CycleWord).getLsbD 8 = false ∧
        (0x200 : CycleWord).getLsbD 9 = (0x2FF : CycleWord).getLsbD 9) ∧
      (0x000 : CycleWord).getLsbD 9 = (0x0FF : CycleWord).getLsbD 9 := by decide

theorem witness_EncodedWordsDecodeToExpansion :
    (Instr.frame 1 2 3 (List.replicate 255 0)).wf = true ∧ expand (.feed 0xFF) = [.feed 0xFF] ∧ encode (.feed 0xFF) = [0x1FF] ∧
      expand .reset = [.reset] ∧ encode .reset = [0x400] := by
  exact ⟨test_wf_accepts.1, by decide, by decide, by decide, by decide⟩

theorem witness_StepRunsDecodedWord :
    (State.reset.withFetchWord 16 0x7FF).input = .word 0x7FF :: [] ∧ decodeTableWord 16 0x7FF = some .reset ∧
      decodeTableWord 16 0 = some .idle := by decide

theorem witness_StepUsesOfferedPort :
    ({ State.reset with input := [.port (.checksum pollPacket)] } : State).input = .port (.checksum pollPacket) :: [] ∧
      ({ State.reset with input := [.port (.encode pollPacket)] } : State).input = .port (.encode pollPacket) :: [] ∧
      ({ State.reset with input := [.port (.isResponse pollPacket)] } : State).input = .port (.isResponse pollPacket) :: [] ∧
      ({ State.reset with input := [.port (.responseRequired pollPacket)] } : State).input =
        .port (.responseRequired pollPacket) :: [] := by decide

theorem witness_StepTakesFreeWordWhenNoneKnown : State.reset.input = [] := by decide

theorem witness_OfferedProgramRunsInstruction :
    (Instr.frame 1 2 3 (List.replicate 255 0)).wf = true ∧ usesPort (.frame 1 2 3 (List.replicate 255 0)) = false ∧
      usesPort (.tickN 0) = false := by
  exact ⟨test_wf_accepts.1, rfl, rfl⟩

theorem witness_HeldResetKeepsResetState : (0x400 : CycleWord).getLsbD 10 = true ∧ (0x7FF : CycleWord).getLsbD 10 = true := by decide

theorem witness_FeedInStartSeeksMarker : (inPos .start 0).st = .start := by decide

theorem witness_FeedInLeadinChecksLeadin : (inPos .leadin 0).st = .leadin := by decide

theorem witness_FeedInAddressCapturesDestination : (inPos .address 0).st = .address := by decide

theorem witness_FeedInSourceCapturesSource : (inPos .source 150).st = .source := by decide

theorem witness_FeedInCommandCapturesCommand : (inPos .command 0).st = .command := by decide

theorem witness_FeedInDatalenCapturesLength : (inPos .datalen 0).st = .datalen := by decide

/-- The first byte of a one-byte frame, the last of a 255-byte frame, and an `idx` past `len`. -/
theorem witness_FeedInDataStoresByte :
    ({ inPos .data 0 with len := 1 } : State).st = .data ∧ ({ inPos .data 0 with len := 1 } : State).idx.toNat ≤ 254 ∧
      Memory.wf ({ inPos .data 0 with len := 1 } : State).buf = true ∧
      ({ inPos .data 0 with len := 1 } : State).idx.toNat < ({ inPos .data 0 with len := 1 } : State).len.toNat ∧
      ({ inPos .data 0 with len := 255, idx := 254, buf := [(253, 1)] } : State).idx.toNat ≤ 254 ∧
      ({ inPos .data 0 with len := 255, idx := 254, buf := [(253, 1)] } : State).idx.toNat <
        ({ inPos .data 0 with len := 255, idx := 254, buf := [(253, 1)] } : State).len.toNat ∧
      Memory.wf [(253, 1)] = true ∧ ({ inPos .data 0 with len := 1, idx := 9 } : State).idx.toNat ≤ 254 := by decide

theorem witness_FeedInChecksumEndsFrame :
    pollResponse.st = .checksum ∧
      answerPacket =
        { dst := pollResponse.dst, src := pollResponse.src, cmd := pollResponse.cmd,
          data := (List.range pollResponse.len.toNat).map (Memory.read pollResponse.buf) } ∧
      (0xD2 : Byte) = checksum answerPacket ∧ (0xD3 : Byte) ≠ checksum answerPacket := by decide

theorem witness_FeedAtMissingEntryWritesNothing :
    ({ inPos .data 40 with len := 255, idx := 255 } : State).st = .data ∧
      ({ inPos .data 40 with len := 255, idx := 255 } : State).idx.toNat = 255 := by decide

theorem witness_TickWhileStoppedChangesNothing :
    (inPos .start 0).st = .start ∧ (inPos .leadin 0).st = .leadin ∧ (inPos .address 0).st = .address := by decide

theorem witness_TickWhileRunningCountsOrTimesOut :
    (shortPos .source 3).st = .source ∧ (shortPos .source 3).elapsed = (shortPos .source 3).cfg.tIB.val ∧
      (shortPos .checksum 2).st = .checksum ∧ (shortPos .checksum 2).elapsed ≠ (shortPos .checksum 2).cfg.tIB.val := by decide

/-- The invariant at the largest parameter with the timer at its end. -/
theorem witness_TimerWidthHoldsElapsed :
    0 < 1 ∧ FrameInv ({ inPos .source 65535 with cfg := { tIB := 65535 } } : State) ∧ FrameInv (shortPos .source 3) := by decide

theorem witness_ErrorTouchesOnlyPositionAndTimer :
    seen (exec (decodeWord 0x200) (shortPos .source 3)) = some (.start, 0, .error .packetTimeout) ∧
      seen (exec (decodeWord 0x1C5) pollRequest) = some (.start, 0, .error .corruptPacket) := by decide

theorem witness_EventsByCause :
    seen (exec (decodeWord 0x200) (shortPos .source 3)) = some (.start, 0, .error .packetTimeout) ∧
      seen (exec (decodeWord 0x1C5) pollRequest) = some (.start, 0, .error .corruptPacket) ∧
      seen (exec (decodeWord 0x1C4) pollRequest) = some (.start, 0, .packet pollPacket) := by decide

theorem witness_DroppedInputsRaiseNoError :
    (inPos .start 0).st = .start ∧ (0xBA : Byte) ≠ 0xBB ∧ (inPos .leadin 0).st = .leadin ∧ (0x89 : Byte) ≠ 0x88 ∧
      running (inPos .address 0).st = false := by decide

theorem witness_FrameRecognisedOnlyFromStart :
    seen (exec (decodeWord 0x1BB) (inPos .start 0)) = some (.leadin, 0, .none) ∧
      seen (exec (decodeWord 0x188) (inPos .leadin 0)) = some (.address, 0, .none) ∧
      decodeWord 0x400 = .reset ∧ (nextOf (exec .reset (inPos .leadin 0))).isSome = true := by decide

theorem witness_PinsFollowEvent :
    decodeWord 0x000 ≠ .reset ∧ seen (exec (decodeWord 0x000) pollRequest) = some (.checksum, 0, .none) ∧
      decodeWord 0x1C4 ≠ .reset ∧ seen (exec (decodeWord 0x1C4) pollRequest) = some (.start, 0, .packet pollPacket) ∧
      decodeWord 0x1C5 ≠ .reset ∧ seen (exec (decodeWord 0x1C5) pollRequest) = some (.start, 0, .error .corruptPacket) ∧
      decodeWord 0x200 ≠ .reset ∧
      seen (exec (decodeWord 0x200) (shortPos .source 3)) = some (.start, 0, .error .packetTimeout) := by decide

theorem witness_PinsShowEventAfterEveryStep :
    PinsShowEvent (pollRequest.withFetchWord 16 0x1C4) ∧ (nextOf (step (pollRequest.withFetchWord 16 0x1C4))).isSome = true := by
  decide

theorem witness_ErrorCodesOfThePins :
    PinsShowEvent State.reset ∧
      PinsShowEvent ({ State.reset with ev := .error .packetTimeout, errValid := true, errCode := 0b01 } : State) ∧
      PinsShowEvent ({ State.reset with ev := .error .corruptPacket, errValid := true, errCode := 0b10 } : State) := by decide

theorem witness_ChecksumPortGivesSum : (longPacket 255).wf = true ∧ pollPacket.wf = true := by
  exact ⟨test_wf_packet.1, by decide⟩

theorem witness_CommandBitPorts : (longPacket 255).wf = true ∧ answerPacket.wf = true := by
  exact ⟨test_wf_packet.1, by decide⟩

theorem witness_EncodePortGivesFrame : (longPacket 255).wf = true ∧ (longPacket 0).wf = true := by
  exact ⟨test_wf_packet.1, by decide⟩

/-- EncodeRefusesLongData has no hypothesis; both of its sides occur, at the boundary. -/
theorem witness_EncodeRefusesLongData : 255 < (longPacket 256).data.length ∧ (longPacket 255).data.length ≤ 255 := by
  simp [-List.reduceReplicate, longPacket]

theorem witness_NoPacketNoMeaning : 255 < (longPacket 256).data.length := by
  simp [-List.reduceReplicate, longPacket]

/-- The read port at indices 254 and 255; a packet emission; a FEED in DATA at an entry not below `o_len`. -/
theorem witness_ReadPortShowsHeldPacket :
    ({ State.reset with input := [.port (.readBuffer 254)] } : State).input = .port (.readBuffer 254) :: [] ∧
      ({ State.reset with input := [.port (.readBuffer 255)] } : State).input = .port (.readBuffer 255) :: [] ∧
      seen (exec (decodeWord 0x1D2) pollResponse) = some (.start, 0, .packet answerPacket) ∧
      decodeWord 0x107 ≠ .reset ∧
      seen (exec (decodeWord 0x107) { pollResponse with st := .data, len := 5, oLen := 3 }) = some (.data, 0, .none) ∧
      ({ pollResponse with st := .data, len := 5, oLen := 3 } : State).oLen.toNat ≤
        ({ pollResponse with st := .data, len := 5, oLen := 3 } : State).idx.toNat := by decide

theorem witness_PortsLeaveDeserializerAlone :
    usesPort (.encode pollPacket) = true ∧ (nextOf (exec (.encode pollPacket) State.reset)).isSome = true ∧
      (nextOf (exec (.encode pollPacket) pollResponse)).isSome = true ∧
      (nextOf (usePort (.readBuffer 255) pollResponse)).isSome = true := by decide

/-- V-E rows 1 and 2: frames of no and of three data bytes, valid. -/
theorem witness_FrameCheckLaw :
    State.reset.st = .start ∧ Memory.wf State.reset.buf = true ∧ (frameOf pollPacket).length = 7 + 0 ∧
      frameCheck 0 (frameOf pollPacket) = true ∧ ([0xBB, 0x88, 0x00, 0x05, 0x7F, 0x03, 0x05, 0x12, 0x34, 0xD2] : List Byte).length = 7 + 3 ∧
      frameCheck 3 [0xBB, 0x88, 0x00, 0x05, 0x7F, 0x03, 0x05, 0x12, 0x34, 0xD2] = true := by decide

/-- V-X rows 1, 4 and 6: the first, a middle and the last of the bytes the rule names. -/
theorem witness_SingleByteCorruptionFailsCheck :
    answerPacket.wf = true ∧ (2 ≤ 2 ∧ 2 ≠ 5 ∧ 2 < 7 + answerPacket.data.length ∧ (frameOf answerPacket)[2]? ≠ some 0x01) ∧
      (2 ≤ 6 ∧ 6 ≠ 5 ∧ 6 < 7 + answerPacket.data.length ∧ (frameOf answerPacket)[6]? ≠ some 0x04) ∧
      (2 ≤ 9 ∧ 9 ≠ 5 ∧ 9 < 7 + answerPacket.data.length ∧ (frameOf answerPacket)[9]? ≠ some 0x00) := by decide

theorem witness_CorruptedFrameRaisesError :
    State.reset.st = .start ∧ Memory.wf State.reset.buf = true ∧ answerPacket.wf = true ∧
      (2 ≤ 2 ∧ 2 ≠ 5 ∧ 2 < 7 + answerPacket.data.length ∧ (frameOf answerPacket)[2]? ≠ some 0x01) ∧
      (2 ≤ 9 ∧ 9 ≠ 5 ∧ 9 < 7 + answerPacket.data.length ∧ (frameOf answerPacket)[9]? ≠ some 0x00) := by decide

/-- The POLL response with the largest gaps before its bytes 3 and later (`T_IB = 150` ticks) and a longer one before its marker. -/
def fullGaps : List (List Bool) := List.replicate 200 true :: [] :: [false] :: List.replicate 7 (List.replicate 150 true)

theorem witness_CorruptedFrameRaisesError_gaps :
    fullGaps.length = (frameOf answerPacket).length ∧
      ∀ (j : Nat) (gap : List Bool), 3 ≤ j → fullGaps[j]? = some gap → gap.count true ≤ State.reset.cfg.tIB.val := by
  refine ⟨by decide, fun j gap hj hg => ?_⟩
  obtain ⟨i, rfl⟩ : ∃ i, j = i + 3 := ⟨j - 3, by omega⟩
  have hg' : (List.replicate 7 (List.replicate 150 true))[i]? = some gap := hg
  rw [List.eq_of_mem_replicate (List.mem_of_getElem? hg')]
  exact Nat.le_of_eq (List.count_replicate_self ..)

/-- The swap of W5, two header bytes exchanged, a header byte exchanged with a data byte, and two byte changes that cancel. -/
theorem witness_ChecksumBlindSpots :
    ([0x12, 0x34] : List Byte).Perm [0x34, 0x12] ∧ ([0x01, 0x02, 0x03] : List Byte).Perm [0x03, 0x02, 0x01] ∧
      answerPacket.data[2]? = some 0x34 ∧
      (0x01 + 0x02 + 0x03 + 2 + byteSum [0x00, 0x00]) % 256 = (0x01 + 0x02 + 0x03 + 2 + byteSum [0xFF, 0x01]) % 256 := by
  exact ⟨List.Perm.swap _ _ _, by decide, by decide, by decide⟩

/-- The POLL request with the largest gap before its last byte (`T_IB = 150` ticks) and a longer one before its first. -/
def widestGaps : List (List Bool) :=
  [List.replicate 200 true, [], [false], [], [true], [], List.replicate 150 true]

theorem witness_FramedPacketRoundTrips :
    pollPacket.wf = true ∧ State.reset.st = .start ∧ Memory.wf State.reset.buf = true ∧
      widestGaps.length = (frameOf pollPacket).length := by decide

theorem witness_FramedPacketRoundTrips_gaps :
    ∀ (k : Nat) (gap : List Bool), 3 ≤ k → widestGaps[k]? = some gap → gap.count true ≤ State.reset.cfg.tIB.val := by
  intro k gap hk hg
  match k, hk with
  | 3, _ => cases hg; decide
  | 4, _ => cases hg; decide
  | 5, _ => cases hg; decide
  | 6, _ => cases hg; exact Nat.le_of_eq (List.count_replicate_self ..)
  | k + 7, _ => exact absurd hg (by simp [widestGaps])

theorem witness_TimeoutAfterIdleTicks :
    running (shortPos .source 1).st = true ∧
      (shortPos .source 1).elapsed + [true, false, true].count true = (shortPos .source 1).cfg.tIB.val ∧
      running (shortPos .source 3).st = true ∧ (shortPos .source 3).elapsed + [].count true = (shortPos .source 3).cfg.tIB.val ∧
      running (inPos .address 0).st = false := by decide

/-- The case n = 0 is met at the boundary `elapsed = T_IB`; test_empty_expansions runs it. -/
theorem witness_CountedTicksAndIdles :
    running (inPos .address 0).st = false ∧ running (shortPos .source 1).st = true ∧
      (shortPos .source 1).elapsed + 2 ≤ (shortPos .source 1).cfg.tIB.val ∧
      (shortPos .source 3).elapsed + 0 ≤ (shortPos .source 3).cfg.tIB.val ∧
      (shortPos .source 1).elapsed ≤ (shortPos .source 1).cfg.tIB.val ∧
      (shortPos .source 1).cfg.tIB.val < (shortPos .source 1).elapsed + 3 := by decide

theorem witness_PseudoInstructionRunsExpansion : (longPacket 255).wf = true ∧ pollPacket.wf = true := by
  exact ⟨test_wf_packet.1, by decide⟩

theorem witness_FeedBufferCollectsEvents :
    seen (exec (.feed 0xC4) pollRequest) = some (.start, 0, .packet pollPacket) := by decide

theorem witness_DataBytesStoredInArrivalOrder :
    (inPos .datalen 0).st = .datalen ∧ Memory.wf (inPos .datalen 0).buf = true ∧
      ([0x05, 0x12, 0x34] : List Byte).length ≤ (3 : Byte).toNat ∧ ([] : List Byte).length ≤ (0 : Byte).toNat ∧
      (List.replicate 255 (0x07 : Byte)).length ≤ (255 : Byte).toNat := by
  exact ⟨by decide, by decide, by decide, by decide, by simp [-List.reduceReplicate]⟩

/-- 259 bytes with a tick and an idle cycle among them; `T_IB + 1` ticks with an idle cycle among them; 259 bytes alone. -/
theorem witness_RunningFrameEnds :
    FrameInv (inPos .source 150) ∧ running (inPos .source 150).st = true ∧
      (∀ op ∈ (.idle :: .tick :: List.replicate 259 (.feed 0x00) : List Instr), isLineCycle op = true) ∧
      259 ≤ (.idle :: .tick :: List.replicate 259 (.feed 0x00) : List Instr).countP isFeed ∧
      (inPos .source 150).cfg.tIB.val + 1 ≤ (false :: List.replicate 151 true).count true ∧
      (List.replicate 259 (0x00 : Byte)).length = 259 := by
  refine ⟨by decide, by decide, ?_, ?_, ?_, List.length_replicate ..⟩
  · simp [-List.reduceReplicate, isLineCycle]
  · simp [-List.reduceReplicate, List.countP_replicate, isFeed]
  · rw [List.count_cons, List.count_replicate_self]; decide

theorem witness_RunningFrameEnds_stopped :
    (inPos .leadin 0).st = .leadin ∧ (0xBB : Byte) ≠ 0x88 ∧ (inPos .address 0).st = .address ∧
      seen (exec (decodeWord 0x1BB) (inPos .address 0)) = some (.source, 0, .none) := by decide

theorem witness_HoldWindowOfEmittedPacket :
    seen (exec (.feed 0xD2) pollResponse) = some (.start, 0, .packet answerPacket) ∧ answerPacket.data[2]? = some 0x34 ∧
      (∀ op ∈ ([.tick, .feed 0xBB, .idle, .feedtick 0x88] : List Instr), isLineCycle op = true) ∧
      ([.tick, .feed 0xBB, .idle, .feedtick 0x88] : List Instr).countP isFeed ≤ 6 + 2 ∧
      (List.replicate 8 (Instr.feed 0xBB)).countP isFeed ≤ 6 + 2 := by decide

theorem witness_InvariantKeptByEveryStep :
    FrameInv (pollResponse.withFetchWord 16 0x1D2) ∧ (nextOf (step (pollResponse.withFetchWord 16 0x1D2))).isSome = true := by decide

/-- A state of the invariant and one outside it: `idx = 255` in DATA. The inputs list a use of a port whose operand is a packet. -/
theorem witness_EveryInstructionCompletes :
    FrameInv pollResponse ∧ ¬FrameInv ({ inPos .data 0 with len := 255, idx := 255 } : State) ∧
      (Instr.frame 1 2 3 (List.replicate 255 0)).wf = true ∧ (PortUse.encode (longPacket 255)).wf = true ∧
      ∀ u rest, ({ pollResponse with input := [.port (.encode pollPacket)] } : State).input = .port u :: rest → u.wf = true := by
  refine ⟨by decide, by decide, test_wf_accepts.1, test_wf_packet.1, fun u rest h => ?_⟩
  cases h
  decide

theorem witness_ParameterNeverWritten :
    (nextOf (exec .reset (shortPos .source 3))).isSome = true ∧
      (nextOf (step ((shortPos .source 3).withFetchWord 16 0x400))).isSome = true := by decide

/-- Reset, and a state with other leftovers: a captured frame in the registers and the buffer. -/
theorem witness_LeftoversNeverShow :
    State.reset.st = ({ pollResponse with st := .start } : State).st ∧ running State.reset.st = false ∧
      State.reset.cfg = ({ pollResponse with st := .start } : State).cfg ∧
      State.reset.log = ({ pollResponse with st := .start } : State).log ∧ Memory.wf State.reset.buf = true ∧
      Memory.wf ({ pollResponse with st := .start } : State).buf = true := by decide

/-- Every clause of OnlyNamedOperationsWrite occurs: each register, the buffer and the timer are written by some word. -/
theorem witness_OnlyNamedOperationsWrite :
    decodeWord 0x107 ≠ .reset ∧
      (nextOf (exec (decodeWord 0x107) (inPos .address 0))).map (fun t => t.dst) = some 7 ∧
      (nextOf (exec (decodeWord 0x107) (inPos .source 3))).map (fun t => (t.src, t.elapsed)) = some (7, 0) ∧
      (nextOf (exec (decodeWord 0x107) (inPos .command 0))).map (fun t => t.cmd) = some 7 ∧
      (nextOf (exec (decodeWord 0x107) { inPos .datalen 0 with idx := 9 })).map (fun t => (t.len, t.idx)) = some (7, 0) ∧
      (nextOf (exec (decodeWord 0x107) { inPos .data 0 with len := 255, idx := 254 })).map
        (fun t => (Memory.read t.buf 254, t.idx)) = some (7, 255) ∧
      (nextOf (exec (decodeWord 0x107) { inPos .data 0 with len := 255, idx := 255 })).isSome = true ∧
      decodeWord 0x200 ≠ .reset ∧ (nextOf (exec (decodeWord 0x200) (shortPos .source 2))).map (fun t => t.elapsed) = some 3 ∧
      (nextOf (exec (decodeWord 0x200) (shortPos .source 3))).map (fun t => t.elapsed) = some 0 := by
  decide

theorem witness_BufferReadAfterWrite :
    Memory.wf [(0, 0x05), (254, 0x34)] = true ∧ 254 ≤ 254 ∧ 0 ≤ 254 ∧
      Memory.wf (Memory.write [(0, 0x05), (254, 0x34)] 0 0x00) = true ∧
      (∀ j, Memory.read (Memory.write [(0, 0x05), (254, 0x34)] 0 0x00) j =
        Memory.read (Memory.write [(0, 0x05), (254, 0x34)] 0 0x00) j) := by
  exact ⟨by decide, by decide, by decide, by decide, fun _ => rfl⟩

end Sys2Proof.Tests
end

section
/-! The width of the inter-byte timer (R9): what `timerWidth` is, the bounds it gives, and that `elapsed` fits it. -/

namespace Sys2Proof.Machine

/-- For a positive `T_IB` the floor of 1 in R9 does nothing: the width is the number of bits of `T_IB`. -/
theorem timerWidth_of_pos {t : Nat} (ht : 0 < t) : timerWidth t = t.log2 + 1 := by
  unfold timerWidth
  rw [if_neg (Nat.ne_of_gt ht)]
  exact Nat.max_eq_right (Nat.le_add_left 1 t.log2)

theorem two_pow_pred_timerWidth_le {t : Nat} (ht : 0 < t) : 2 ^ (timerWidth t - 1) ≤ t := by
  rw [timerWidth_of_pos ht, Nat.add_sub_cancel]
  exact Nat.log2_self_le (Nat.ne_of_gt ht)

/-- The value `t = 0` is included: there the floor of 1 in R9 gives one bit. -/
theorem lt_two_pow_timerWidth (t : Nat) : t < 2 ^ timerWidth t := by
  rcases Nat.eq_zero_or_pos t with rfl | ht
  · exact Nat.two_pow_pos _
  · rw [timerWidth_of_pos ht]
    exact Nat.lt_log2_self

/-- Settles O27: the bounds of the width hold for every `T_IB`, and the invariant keeps `elapsed` at most `T_IB` (R34 item 1). -/
theorem timerWidthHoldsElapsed : Obligations.TimerWidthHoldsElapsed := by
  refine ⟨by decide, by decide, by decide, fun t ht => ?bounds, fun s hs => ?fits⟩
  case bounds => exact ⟨two_pow_pred_timerWidth_le ht, lt_two_pow_timerWidth t⟩
  case fits =>
    obtain ⟨hle, -⟩ := hs
    exact ⟨hle, Nat.lt_of_le_of_lt hle (lt_two_pow_timerWidth s.cfg.tIB.val)⟩

end Sys2Proof.Machine
end

section
/-! What a step can do, said once for all its kinds: a cycle word runs one of the four operations, a use of a port only gives a value. -/

namespace Sys2Proof.Machine

variable {s t : State}

/-- Taking the offer writes only the outside world's fields. -/
theorem fetch_state_eq (s : State) : ∃ input envTime, (fetch s).2 = { s with input := input, envTime := envTime } := by
  unfold fetch
  split
  · exact ⟨s.input, s.envTime + 1, rfl⟩
  · next rest _ => exact ⟨rest, s.envTime, rfl⟩

/-- Only a packet operand is run (R80, R85). -/
theorem withPacket_next {p : Packet} {f : Packet → Host.Outcome State Fault Refusal} (h : withPacket p f = .next t) :
    f p = .next t := by
  obtain ⟨-, hrun⟩ | ⟨-, hrefused⟩ := withPacket_cases p f
  · exact hrun ▸ h
  · simp [hrefused] at h

theorem execChecksum_next {p : Packet} (h : execChecksum p s = .next t) : t = { s with fnOut := .byte (checksum p) } := by
  cases withPacket_next h
  rfl

theorem execEncode_next {p : Packet} (h : execEncode p s = .next t) : t = { s with fnOut := .bytes (frameOf p) } := by
  cases withPacket_next h
  rfl

theorem execIsResponse_next {p : Packet} (h : execIsResponse p s = .next t) :
    t = { s with fnOut := .bit (isResponseBit p.cmd) } := by
  cases withPacket_next h
  rfl

theorem execResponseRequired_next {p : Packet} (h : execResponseRequired p s = .next t) :
    t = { s with fnOut := .bit (responseRequiredBit p.cmd) } := by
  cases withPacket_next h
  rfl

/-- A use of a port writes only the port's value (R53). -/
theorem usePort_next {u : PortUse} (h : usePort u s = .next t) : ∃ v, t = { s with fnOut := v } := by
  cases u with
  | checksum p => exact ⟨_, execChecksum_next h⟩
  | encode p => exact ⟨_, execEncode_next h⟩
  | isResponse p => exact ⟨_, execIsResponse_next h⟩
  | responseRequired p => exact ⟨_, execResponseRequired_next h⟩
  | readBuffer i =>
    cases h
    exact ⟨_, rfl⟩

/-- A step runs a cycle word or gives a port's value, from a state that differs only in what the outside world offers next. -/
theorem step_next (h : step s = .next t) : ∃ input envTime,
    (∃ w, exec (decodeWord w) { s with input := input, envTime := envTime } = .next t) ∨
      ∃ v, t = { s with input := input, envTime := envTime, fnOut := v } := by
  obtain ⟨input, envTime, hs⟩ := fetch_state_eq s
  refine ⟨input, envTime, ?_⟩
  unfold step at h
  rw [hs] at h
  split at h
  · next w _ => exact .inl ⟨w, h⟩
  · exact .inr (usePort_next h)

/-- The step of a cycle word is the step of one of the four operations (R62, R100). -/
theorem exec_decodeWord_next {w : CycleWord} (h : exec (decodeWord w) s = .next t) :
    (decodeWord w = .reset ∧ t = silent (clearState s)) ∨
      (∃ b, decodeWord w = .feed b ∧ execFeed b s = .next t) ∨
      (decodeWord w = .tick ∧ execTick s = .next t) ∨ (decodeWord w = .idle ∧ t = silent s) := by
  obtain hw | ⟨b, hw⟩ | hw | hw := decodeWord_cases w <;> rw [hw] at h
  · cases h
    exact .inl ⟨hw, rfl⟩
  · exact .inr (.inl ⟨b, hw, h⟩)
  · exact .inr (.inr (.inl ⟨hw, h⟩))
  · cases h
    exact .inr (.inr (.inr ⟨hw, rfl⟩))

end Sys2Proof.Machine
end

section
/-! The invariant of R34, items 1 to 4, in its two halves: the timer's bound and the count of data bytes. -/

namespace Sys2Proof.Machine

variable {s t : State} {b : Byte}

/-- R34 items 1 and 2: `elapsed` stays within `T_IB`, and a stopped timer is at 0. -/
structure TimerInv (s : State) : Prop where
  le_tIB : s.elapsed ≤ s.cfg.tIB.val
  stopped : running s.st = false → s.elapsed = 0

/-- R34 items 3 and 4 and the canonical form of the buffer (log 7): in DATA bytes are still to come, in CHECKSUM all have come. -/
structure CountInv (s : State) : Prop where
  data : s.st = .data → s.idx.toNat < s.len.toNat
  checksum : s.st = .checksum → s.idx = s.len
  buf : Memory.wf s.buf = true

theorem frameInv_iff : FrameInv s ↔ TimerInv s ∧ CountInv s := by
  constructor
  · rintro ⟨hle, hstop, hdata, hck, hbuf⟩
    exact ⟨⟨hle, hstop⟩, ⟨fun h => (hdata h).2, hck, hbuf⟩⟩
  · rintro ⟨⟨hle, hstop⟩, ⟨hdata, hck, hbuf⟩⟩
    exact ⟨hle, hstop, fun h => ⟨by have := hdata h; omega, hdata h⟩, hck, hbuf⟩

theorem TimerInv.of_elapsed_zero (h : t.elapsed = 0) : TimerInv t :=
  ⟨h ▸ Nat.zero_le _, fun _ => h⟩

/-- Outside DATA and CHECKSUM the count says nothing. -/
theorem CountInv.of_st_ne (hd : t.st ≠ .data) (hc : t.st ≠ .checksum) (hb : Memory.wf t.buf = true) : CountInv t :=
  ⟨fun h => absurd h hd, fun h => absurd h hc, hb⟩

/-- The count of R108 does not wrap below 255. -/
theorem toNat_idx_succ {i : Byte} (h : i.toNat ≤ 254) : (i + 1).toNat = i.toNat + 1 := by
  rw [BitVec.toNat_add_of_lt] <;> simp
  omega

/-- A FEED leaves `elapsed` at 0, but in START and LEADIN, where it leaves `elapsed` alone (R102 to R109). -/
theorem execFeed_elapsed (h : execFeed b s = .next t) :
    t.elapsed = s.elapsed ∧ (s.st = .start ∨ s.st = .leadin) ∨
      t.elapsed = 0 ∧ (running s.st = true ∨ s.st = .address) := by
  obtain ⟨hst, rfl⟩ | ⟨hst, rfl⟩ | ⟨hst, rfl⟩ | ⟨hst, rfl⟩ | ⟨hst, rfl⟩ | ⟨hst, rfl⟩ | ⟨hst, -, rfl⟩ | ⟨hst, -, rfl⟩ |
    ⟨hst, -, rfl⟩ | ⟨hst, -, rfl⟩ := execFeed_next h
  · exact .inl ⟨rfl, .inl hst⟩
  · exact .inl ⟨rfl, .inr hst⟩
  · exact .inr ⟨rfl, .inr hst⟩
  all_goals exact .inr ⟨rfl, .inl (by rw [hst]; rfl)⟩

/-- With the timer stopped at 0 in START and LEADIN, every FEED leaves `elapsed` at 0. -/
theorem TimerInv.feed (hs : TimerInv s) (h : execFeed b s = .next t) : TimerInv t := by
  apply TimerInv.of_elapsed_zero
  obtain ⟨he, hst⟩ | ⟨he, -⟩ := execFeed_elapsed h
  · rw [he]
    exact hs.stopped (by obtain hst | hst := hst <;> rw [hst] <;> rfl)
  · exact he

/-- A TICK counts only below `T_IB`, and only while the timer runs. -/
theorem TimerInv.tick (hs : TimerInv s) (h : execTick s = .next t) : TimerInv t := by
  obtain ⟨-, h'⟩ | ⟨-, -, h'⟩ | ⟨hrun, hne, h'⟩ := execTick_cases s <;> rw [h'] at h <;> cases h
  · exact ⟨hs.le_tIB, hs.stopped⟩
  · exact TimerInv.of_elapsed_zero rfl
  · refine ⟨Nat.lt_of_le_of_ne hs.le_tIB hne, fun hstop => ?_⟩
    rw [show (running s.st = false) from hstop] at hrun
    cases hrun

/-- While data bytes are counted, `st` tells whether all have come. -/
theorem CountInv.of_count (hle : t.idx.toNat ≤ t.len.toNat)
    (hst : t.st = if t.idx.toNat = t.len.toNat then .checksum else .data) (hb : Memory.wf t.buf = true) : CountInv t := by
  by_cases heq : t.idx.toNat = t.len.toNat
  · rw [if_pos heq] at hst
    exact ⟨by simp [hst], fun _ => BitVec.eq_of_toNat_eq heq, hb⟩
  · rw [if_neg heq] at hst
    exact ⟨fun _ => Nat.lt_of_le_of_ne hle heq, by simp [hst], hb⟩

/-- DATALEN starts the count at 0, DATA moves it on by one, and CHECKSUM is entered when it reaches `len` (R107, R108). -/
theorem CountInv.feed (hs : CountInv s) (h : execFeed b s = .next t) : CountInv t := by
  obtain ⟨hst, rfl⟩ | ⟨-, rfl⟩ | ⟨-, rfl⟩ | ⟨-, rfl⟩ | ⟨-, rfl⟩ | ⟨-, rfl⟩ | ⟨hst, hi, rfl⟩ | ⟨-, -, rfl⟩ | ⟨-, -, rfl⟩ |
    ⟨hst, hi, rfl⟩ := execFeed_next h
  · by_cases hb : b = sync0 <;> exact CountInv.of_st_ne (by simp [hb, hst]) (by simp [hb, hst]) hs.buf
  · by_cases hb : b = sync1 <;> exact CountInv.of_st_ne (by simp [hb]) (by simp [hb]) hs.buf
  · exact CountInv.of_st_ne nofun nofun hs.buf
  · exact CountInv.of_st_ne nofun nofun hs.buf
  · exact CountInv.of_st_ne nofun nofun hs.buf
  · exact CountInv.of_count (Nat.zero_le _) (by simp [eq_comm, ← BitVec.toNat_inj]) hs.buf
  · have hlt := hs.data hst
    have hsucc := toNat_idx_succ hi
    exact CountInv.of_count (by simp only [silent_idx, silent_len]; omega) (by simp only [silent_st, silent_idx, silent_len, hsucc])
      (Memory.wf_write hs.buf hi b)
  · exact CountInv.of_st_ne nofun nofun hs.buf
  · exact CountInv.of_st_ne nofun nofun hs.buf
  · have hlt := hs.data hst
    have hlen := s.len.isLt
    omega

/-- A TICK ends the frame or leaves `st`, `idx`, `len` and the buffer. -/
theorem CountInv.tick (hs : CountInv s) (h : execTick s = .next t) : CountInv t := by
  obtain ⟨-, h'⟩ | ⟨-, -, h'⟩ | ⟨-, -, h'⟩ := execTick_cases s <;> rw [h'] at h <;> cases h
  · exact ⟨hs.data, hs.checksum, hs.buf⟩
  · exact CountInv.of_st_ne nofun nofun hs.buf
  · exact ⟨hs.data, hs.checksum, hs.buf⟩

theorem TimerInv.exec_decodeWord {w : CycleWord} (hs : TimerInv s) (h : exec (decodeWord w) s = .next t) : TimerInv t := by
  obtain ⟨-, rfl⟩ | ⟨b, -, h⟩ | ⟨-, h⟩ | ⟨-, rfl⟩ := exec_decodeWord_next h
  · exact TimerInv.of_elapsed_zero rfl
  · exact hs.feed h
  · exact hs.tick h
  · exact ⟨hs.le_tIB, hs.stopped⟩

theorem CountInv.exec_decodeWord {w : CycleWord} (hs : CountInv s) (h : exec (decodeWord w) s = .next t) : CountInv t := by
  obtain ⟨-, rfl⟩ | ⟨b, -, h⟩ | ⟨-, h⟩ | ⟨-, rfl⟩ := exec_decodeWord_next h
  · exact CountInv.of_st_ne nofun nofun reset_buf_wf
  · exact hs.feed h
  · exact hs.tick h
  · exact ⟨hs.data, hs.checksum, hs.buf⟩

/-- Every cycle word keeps the invariant of R34. -/
theorem FrameInv.exec_decodeWord {w : CycleWord} (hs : FrameInv s) (h : exec (decodeWord w) s = .next t) : FrameInv t := by
  obtain ⟨htimer, hcount⟩ := frameInv_iff.mp hs
  exact frameInv_iff.mpr ⟨htimer.exec_decodeWord h, hcount.exec_decodeWord h⟩

/-- Settles O55: a port's value and the outside world's fields are not in the invariant, and every cycle word keeps it. -/
theorem invariantKeptByEveryStep : Obligations.InvariantKeptByEveryStep := by
  intro s t hs h
  obtain ⟨input, envTime, ⟨w, hw⟩ | ⟨v, rfl⟩⟩ := step_next h
  · exact FrameInv.exec_decodeWord (s := { s with input := input, envTime := envTime }) hs hw
  · exact hs

end Sys2Proof.Machine
end

section
/-! Leftovers never show (R35): two codecs that agree on what the frame in progress has captured answer every cycle word alike. -/

namespace Sys2Proof.Machine

variable {p : Pos} {s t : State}

/-- The two states hold the same header, data length and data bytes, of which `idx` are stored. -/
structure SameBytes (s t : State) : Prop where
  dst : s.dst = t.dst
  src : s.src = t.src
  cmd : s.cmd = t.cmd
  len : s.len = t.len
  idx : s.idx = t.idx
  buf : ∀ j, j < s.idx.toNat → Memory.read s.buf j = Memory.read t.buf j

/-- The two states hold the same of the bytes that are live in a position; what an earlier frame left is not compared. -/
def SameCapture : Pos → State → State → Prop
  | .start, _, _ => True
  | .leadin, _, _ => True
  | .address, _, _ => True
  | .source, s, t => s.dst = t.dst
  | .command, s, t => s.dst = t.dst ∧ s.src = t.src
  | .datalen, s, t => s.dst = t.dst ∧ s.src = t.src ∧ s.cmd = t.cmd
  | .data, s, t => SameBytes s t
  | .checksum, s, t => SameBytes s t

/-- The two codecs are in the same place of the same frame, and have output the same events. -/
structure SameFrame (s t : State) : Prop where
  st : s.st = t.st
  cfg : s.cfg = t.cfg
  log : s.log = t.log
  elapsed : running s.st = true → s.elapsed = t.elapsed
  captured : SameCapture s.st s t

/-- With the timer stopped no captured byte is live. -/
theorem SameCapture.of_stopped (hrun : running p = false) : SameCapture p s t := by
  cases p
  case start | leadin | address => trivial
  all_goals exact absurd hrun (by decide)

theorem SameFrame.of_stopped (hst : s.st = t.st) (hrun : running s.st = false) (hcfg : s.cfg = t.cfg) (hlog : s.log = t.log) :
    SameFrame s t :=
  ⟨hst, hcfg, hlog, fun h => absurd h (by simp [hrun]), SameCapture.of_stopped hrun⟩

/-- `SameCapture` reads only the header, `len`, `idx` and the buffer, which the end of a step with the event `NONE` leaves. -/
theorem SameCapture.silent (h : SameCapture p s t) : SameCapture p (silent s) (silent t) := by
  cases p
  case data | checksum => exact ⟨h.dst, h.src, h.cmd, h.len, h.idx, h.buf⟩
  all_goals exact h

theorem SameCapture.withElapsed (h : SameCapture p s t) (m n : Nat) :
    SameCapture p { s with elapsed := m } { t with elapsed := n } := by
  cases p
  case data | checksum => exact ⟨h.dst, h.src, h.cmd, h.len, h.idx, h.buf⟩
  all_goals exact h

theorem SameFrame.silent (h : SameFrame s t) : SameFrame (silent s) (silent t) :=
  ⟨h.st, h.cfg, by simpa using h.log, h.elapsed, h.captured.silent⟩

theorem readPrefix_congr {m m' : Memory} {n : Nat} (h : ∀ j, j < n → Memory.read m j = Memory.read m' j) :
    Memory.readPrefix m n = Memory.readPrefix m' n :=
  List.map_congr_left fun j hj => h j (List.mem_range.mp hj)

/-- When `len` data bytes are stored, the two codecs hold the same packet. -/
theorem SameBytes.capturedPacket_eq (h : SameBytes s t) (hfull : s.idx = s.len) : capturedPacket s = capturedPacket t := by
  obtain ⟨hdst, hsrc, hcmd, hlen, -, hbuf⟩ := h
  rw [hfull] at hbuf
  simp only [capturedPacket, hdst, hsrc, hcmd, ← hlen, readPrefix_congr hbuf]

/-- The same packet meets the same checksum byte: the two frames end with the same event. -/
theorem SameFrame.feedChecksum (h : SameFrame s t) (hp : capturedPacket s = capturedPacket t) (b : Byte) :
    SameFrame (feedChecksum b s) (feedChecksum b t) := by
  unfold Machine.feedChecksum
  rw [hp]
  split <;> exact SameFrame.of_stopped rfl rfl h.cfg (by simp [h.log])

/-- The same byte is stored at the same entry, and every entry stored before stays. -/
theorem SameBytes.store (h : SameBytes s t) (hi : s.idx.toNat ≤ 254) (hs : Memory.wf s.buf = true) (ht : Memory.wf t.buf = true)
    (b : Byte) (j : Nat) (hj : j < (s.idx + 1).toNat) :
    Memory.read (Memory.write s.buf s.idx.toNat b) j = Memory.read (Memory.write t.buf t.idx.toNat b) j := by
  rw [← h.idx]
  rw [toNat_idx_succ hi] at hj
  by_cases heq : j = s.idx.toNat
  · rw [heq, Memory.read_write_same hs, Memory.read_write_same ht]
  · rw [Memory.read_write_other _ _ heq, Memory.read_write_other _ _ heq]
    exact h.buf j (by omega)

/-- A FEED keeps the two codecs in the same place of the same frame. -/
theorem SameFrame.feed (h : SameFrame s t) (hs : CountInv s) (ht : CountInv t) (b : Byte) :
    ∃ u v, execFeed b s = .next u ∧ execFeed b t = .next v ∧ SameFrame u v := by
  have hc := h.captured
  cases hst : s.st <;> have htt := h.st ▸ hst <;> rw [hst] at hc
  case start =>
    refine ⟨_, _, execFeed_start b s hst, execFeed_start b t htt, SameFrame.silent (.of_stopped ?_ ?_ h.cfg h.log)⟩
    · simp only [h.st]
    · by_cases hb : b = sync0 <;> simp only [hb, hst, ↓reduceIte] <;> rfl
  case leadin =>
    refine ⟨_, _, execFeed_leadin b s hst, execFeed_leadin b t htt, SameFrame.silent (.of_stopped rfl ?_ h.cfg h.log)⟩
    by_cases hb : b = sync1 <;> simp only [hb, ↓reduceIte] <;> rfl
  case address =>
    exact ⟨_, _, execFeed_address b s hst, execFeed_address b t htt,
      SameFrame.silent ⟨rfl, h.cfg, h.log, fun _ => rfl, rfl⟩⟩
  case source =>
    exact ⟨_, _, execFeed_source b s hst, execFeed_source b t htt,
      SameFrame.silent ⟨rfl, h.cfg, h.log, fun _ => rfl, hc, rfl⟩⟩
  case command =>
    obtain ⟨hdst, hsrc⟩ := hc
    exact ⟨_, _, execFeed_command b s hst, execFeed_command b t htt,
      SameFrame.silent ⟨rfl, h.cfg, h.log, fun _ => rfl, hdst, hsrc, rfl⟩⟩
  case datalen =>
    obtain ⟨hdst, hsrc, hcmd⟩ := hc
    refine ⟨_, _, execFeed_datalen b s hst, execFeed_datalen b t htt,
      SameFrame.silent ⟨rfl, h.cfg, h.log, fun _ => rfl, ?_⟩⟩
    by_cases hb : b = 0 <;> simp only [hb, ↓reduceIte] <;> exact ⟨hdst, hsrc, hcmd, rfl, rfl, nofun⟩
  case data =>
    have hi : s.idx.toNat ≤ 254 := by
      have hlt := hs.data hst
      have hlen := s.len.isLt
      omega
    refine ⟨_, _, execFeed_data b s hst hi, execFeed_data b t htt (hc.idx ▸ hi),
      SameFrame.silent ⟨by simp only [hc.idx, hc.len], h.cfg, h.log, fun _ => rfl, ?_⟩⟩
    have hbytes := hc.store hi hs.buf ht.buf b
    split <;> exact ⟨hc.dst, hc.src, hc.cmd, hc.len, by simp only [hc.idx], hbytes⟩
  case checksum =>
    exact ⟨_, _, execFeed_checksum b s hst, execFeed_checksum b t htt,
      h.feedChecksum (hc.capturedPacket_eq (hs.checksum hst)) b⟩

/-- A TICK meets the same timer in both codecs. -/
theorem SameFrame.tick (h : SameFrame s t) : ∃ u v, execTick s = .next u ∧ execTick t = .next v ∧ SameFrame u v := by
  obtain ⟨hrun, hu⟩ | ⟨hrun, he, hu⟩ | ⟨hrun, he, hu⟩ := execTick_cases s
  · refine ⟨_, _, hu, ?_, h.silent⟩
    simp [execTick, ← h.st, hrun]
  · refine ⟨_, _, hu, ?_, SameFrame.of_stopped (t := raiseError .packetTimeout t) rfl rfl h.cfg (by simp [h.log])⟩
    simp [execTick, ← h.st, ← h.cfg, ← h.elapsed hrun, hrun, he]
  · refine ⟨_, Machine.silent { t with elapsed := t.elapsed + 1 }, hu, ?_,
      SameFrame.silent ⟨h.st, h.cfg, h.log, fun _ => by simp only [h.elapsed hrun], h.captured.withElapsed _ _⟩⟩
    simp [execTick, ← h.st, ← h.cfg, ← h.elapsed hrun, hrun, he]

/-- Every cycle word keeps the two codecs in the same place of the same frame. -/
theorem SameFrame.exec_decodeWord (h : SameFrame s t) (hs : CountInv s) (ht : CountInv t) (w : CycleWord) :
    ∃ u v, exec (decodeWord w) s = .next u ∧ exec (decodeWord w) t = .next v ∧ SameFrame u v := by
  obtain hw | ⟨b, hw⟩ | hw | hw := decodeWord_cases w <;> rw [hw]
  · exact ⟨_, _, rfl, rfl, SameFrame.silent (.of_stopped rfl rfl h.cfg h.log)⟩
  · exact h.feed hs ht b
  · exact h.tick
  · exact ⟨_, _, rfl, rfl, h.silent⟩

theorem SameFrame.runAll (ws : List CycleWord) (h : SameFrame s t) (hs : CountInv s) (ht : CountInv t) :
    ∃ u v, runAll (ws.map decodeWord) s = .next u ∧ runAll (ws.map decodeWord) t = .next v ∧ SameFrame u v := by
  induction ws generalizing s t with
  | nil => exact ⟨s, t, rfl, rfl, h⟩
  | cons w ws ih =>
    obtain ⟨u, v, hu, hv, huv⟩ := h.exec_decodeWord hs ht w
    simp only [List.map_cons, Machine.runAll, hu, hv, andThen_next]
    exact ih huv (hs.exec_decodeWord hu) (ht.exec_decodeWord hv)

/-- While the timer is stopped the frame has captured nothing yet, so the count of data bytes says nothing either. -/
theorem CountInv.of_stopped (hrun : running s.st = false) (hb : Memory.wf s.buf = true) : CountInv s :=
  CountInv.of_st_ne (fun h => by rw [h] at hrun; cases hrun) (fun h => by rw [h] at hrun; cases hrun) hb

/-- Settles O58: with the timer stopped nothing is captured, so the two states are in the same place of the same frame, and every cycle
word keeps them there. -/
theorem leftoversNeverShow : Obligations.LeftoversNeverShow := by
  intro s t ws hst hrun hcfg hlog hs ht
  obtain ⟨u, v, hu, hv, huv⟩ := SameFrame.runAll ws (.of_stopped hst hrun hcfg hlog) (.of_stopped hrun hs)
    (.of_stopped (hst ▸ hrun) ht)
  exact ⟨u, v, hu, hv, huv.log, huv.st⟩

end Sys2Proof.Machine
end

section
/-! The data bytes of a frame in the buffer (R34 item 5, R43). -/

namespace Sys2Proof.Machine

variable {s t : State}

/-- `st` while data bytes are counted: DATA until `len` of them have come, CHECKSUM then. -/
def Counting (s : State) : Prop := s.st = if s.idx.toNat = s.len.toNat then .checksum else .data

/-- `t` is `s` with the bytes `ds` stored at `idx` and the entries after it, and counted. -/
structure StoresData (s : State) (ds : List Byte) (t : State) : Prop where
  len : t.len = s.len
  idx : t.idx.toNat = s.idx.toNat + ds.length
  counting : Counting t
  stored : ∀ i d, ds[i]? = some d → Memory.read t.buf (s.idx.toNat + i) = d
  others : ∀ j, j < s.idx.toNat ∨ s.idx.toNat + ds.length ≤ j → Memory.read t.buf j = Memory.read s.buf j

theorem StoresData.nil (h : Counting s) : StoresData s [] s :=
  ⟨rfl, rfl, h, nofun, fun _ _ => rfl⟩

/-- FEED stores and counts one data byte while any are to come (R108). -/
theorem execFeed_storesData (hs : Counting s) (hb : Memory.wf s.buf = true) (hlt : s.idx.toNat < s.len.toNat) (d : Byte) :
    ∃ t, execFeed d s = .next t ∧ Memory.wf t.buf = true ∧ StoresData s [d] t := by
  have hst : s.st = .data := hs.trans (if_neg (Nat.ne_of_lt hlt))
  have hi : s.idx.toNat ≤ 254 := by
    have hlen := s.len.isLt
    omega
  have hsucc := toNat_idx_succ hi
  refine ⟨_, execFeed_data d s hst hi, Memory.wf_write hb hi d, rfl, hsucc, ?_, ?_, ?_⟩
  · simp only [Counting, silent_st, silent_idx, silent_len, hsucc]
  · intro i e he
    obtain ⟨rfl, rfl⟩ : i = 0 ∧ d = e := by simpa [List.getElem?_singleton] using he
    exact Memory.read_write_same hb _ d
  · intro j hj
    exact Memory.read_write_other _ d (by simp only [List.length_singleton] at hj; omega)

/-- Storing one byte and then the others stores the whole list, in order. -/
theorem StoresData.cons {u : State} {d : Byte} {ds : List Byte} (h : StoresData s [d] t) (h' : StoresData t ds u) :
    StoresData s (d :: ds) u := by
  have hidx : t.idx.toNat = s.idx.toNat + 1 := h.idx
  refine ⟨h'.len.trans h.len, ?_, h'.counting, ?_, ?_⟩
  · rw [h'.idx, hidx, List.length_cons]
    omega
  · intro i e he
    cases i with
    | zero =>
      rw [h'.others _ (.inl (by omega))]
      exact h.stored 0 e he
    | succ i =>
      rw [← h'.stored i e he, hidx]
      congr 1
      omega
  · intro j hj
    simp only [List.length_cons] at hj
    rw [h'.others j (by omega), h.others j (by simp only [List.length_singleton]; omega)]

theorem feedAll_storesData (ds : List Byte) (hs : Counting s) (hb : Memory.wf s.buf = true)
    (hle : s.idx.toNat + ds.length ≤ s.len.toNat) : ∃ t, feedAll ds s = .next t ∧ StoresData s ds t := by
  induction ds generalizing s with
  | nil => exact ⟨s, rfl, .nil hs⟩
  | cons d ds ih =>
    rw [List.length_cons] at hle
    obtain ⟨t, ht, htb, hst⟩ := execFeed_storesData hs hb (by omega) d
    obtain ⟨u, hu, htu⟩ := ih hst.counting htb (by rw [hst.idx, hst.len, List.length_singleton]; omega)
    exact ⟨u, by rw [feedAll, ht, andThen_next, hu], hst.cons htu⟩

/-- Settles O51: the datalen byte sets `len` and starts the count at 0; the data bytes are stored from there. -/
theorem dataBytesStoredInArrivalOrder : Obligations.DataBytesStoredInArrivalOrder := by
  intro s n ds hst hb hle
  have hcount : Counting (feedDatalen n s) := by simp [Counting, feedDatalen, eq_comm, ← BitVec.toNat_inj]
  obtain ⟨t, ht, h⟩ := feedAll_storesData (s := feedDatalen n s) ds hcount hb (by simpa [feedDatalen] using hle)
  have hidx : t.idx.toNat = ds.length := h.idx.trans (Nat.zero_add _)
  have hlen : t.len = n := h.len
  refine ⟨t, ?_, hlen, hidx, ?_, fun i d hd => ?_, fun j hj => ?_⟩
  · show feedAll (n :: ds) s = .next t
    rw [feedAll, execFeed_datalen n s hst, andThen_next, ht]
  · rw [h.counting, hidx, hlen]
  · simpa [feedDatalen] using h.stored i d hd
  · exact h.others j (.inr (by simpa [feedDatalen] using hj))

end Sys2Proof.Machine
end

section
/-! The canonical form of the buffer is unique (R26, log 7). -/

namespace Sys2Proof.Machine

theorem Memory.wfFrom_cons {lo a : Nat} {v : Byte} {m : Memory} :
    Memory.wfFrom lo ((a, v) :: m) = true ↔ lo ≤ a ∧ a ≤ 254 ∧ v ≠ unlistedByte ∧ Memory.wfFrom (a + 1) m = true := by
  simp [Memory.wfFrom, and_assoc]

theorem Memory.read_cons_same (a : Nat) (v : Byte) (m : Memory) : Memory.read ((a, v) :: m) a = v := if_pos rfl

theorem Memory.read_cons_other {a j : Nat} (h : j ≠ a) (v : Byte) (m : Memory) :
    Memory.read ((a, v) :: m) j = Memory.read m j := if_neg (Ne.symm h)

/-- No entry before the first one listed reads otherwise than the unlisted byte. -/
theorem Memory.le_of_read_ne {lo c i : Nat} {x : Byte} {k : Memory} (hk : Memory.wfFrom lo ((c, x) :: k) = true)
    (h : Memory.read ((c, x) :: k) i ≠ unlistedByte) : c ≤ i := by
  obtain ⟨-, hc, hx, hrest⟩ := Memory.wfFrom_cons.mp hk
  refine Nat.le_of_not_lt fun hlt => h ?_
  exact Memory.read_below (Memory.wfFrom_cons.mpr ⟨Nat.le_refl c, hc, hx, hrest⟩) hlt

/-- Canonical buffers whose reads agree, one entry in front of both removed, agree on every read. -/
theorem Memory.read_tail_eq {a : Nat} {v x : Byte} {m k : Memory} (hm : Memory.wfFrom (a + 1) m = true)
    (hk : Memory.wfFrom (a + 1) k = true)
    (h : ∀ j, Memory.read ((a, x) :: k) j = Memory.read ((a, v) :: m) j) (j : Nat) : Memory.read k j = Memory.read m j := by
  by_cases hj : j = a
  · rw [hj, Memory.read_below hk (Nat.lt_succ_self a), Memory.read_below hm (Nat.lt_succ_self a)]
  · rw [← Memory.read_cons_other hj x k, h j, Memory.read_cons_other hj v m]

/-- Two canonical buffers with the same reads are equal: each lists exactly the entries that read otherwise than the unlisted byte. -/
theorem Memory.eq_of_read_eq {lo : Nat} {m k : Memory} (hm : Memory.wfFrom lo m = true) (hk : Memory.wfFrom lo k = true)
    (h : ∀ j, Memory.read k j = Memory.read m j) : k = m := by
  induction m generalizing lo k with
  | nil =>
    match k, hk with
    | [], _ => rfl
    | (c, x) :: k, hk =>
      obtain ⟨-, -, hx, -⟩ := Memory.wfFrom_cons.mp hk
      exact absurd ((Memory.read_cons_same c x k).symm.trans (h c)) hx
  | cons cell m ih =>
    obtain ⟨a, v⟩ := cell
    obtain ⟨-, -, hv, hmrest⟩ := Memory.wfFrom_cons.mp hm
    have hka : Memory.read k a = v := (h a).trans (Memory.read_cons_same a v m)
    match k, hk with
    | [], _ => exact absurd hka.symm hv
    | (c, x) :: k, hk =>
      obtain ⟨-, -, hx, hkrest⟩ := Memory.wfFrom_cons.mp hk
      have hca : c ≤ a := Memory.le_of_read_ne hk (hka.symm ▸ hv)
      have hac : a ≤ c := Memory.le_of_read_ne hm (by rw [← h c, Memory.read_cons_same]; exact hx)
      obtain rfl : c = a := Nat.le_antisymm hca hac
      obtain rfl : x = v := (Memory.read_cons_same c x k).symm.trans hka
      rw [ih hmrest hkrest (Memory.read_tail_eq hmrest hkrest h)]

/-- Settles O60, by the laws of `Memory.write` and the uniqueness of the canonical form. -/
theorem bufferReadAfterWrite : Obligations.BufferReadAfterWrite := by
  intro m i b hm hi
  exact ⟨Memory.read_write_same hm i b, fun j hj => Memory.read_write_other m b hj, Memory.wf_write hm hi b,
    fun k hk h => Memory.eq_of_read_eq hm hk h⟩

end Sys2Proof.Machine
end

section
/-! The reset state's registers (R36) and the encoding of `st` (R20, R28). -/

namespace Sys2Proof.Machine

/-- Settles O10: every register of R36 by the definition of the reset state; its empty buffer reads as the unlisted byte 0x00. -/
theorem resetStateRegisters : Obligations.ResetStateRegisters := by
  refine ⟨rfl, rfl, rfl, rfl, rfl, rfl, fun i _ => ?buf, rfl, rfl, rfl, rfl, rfl, rfl, rfl, rfl⟩
  case buf => rfl

/-- The value of `st` that a 3-bit code stands for (R20). -/
def posOfCode (c : BitVec 3) : Pos :=
  match c.toNat with
  | 0 => .start
  | 1 => .leadin
  | 2 => .address
  | 3 => .source
  | 4 => .command
  | 5 => .datalen
  | 6 => .data
  | _ => .checksum

theorem posOfCode_stCode (p : Pos) : posOfCode (stCode p) = p := by
  cases p <;> rfl

theorem stCode_posOfCode : ∀ c : BitVec 3, stCode (posOfCode c) = c := by
  decide

/-- Settles O26: `running` is the order of the encoding, and `posOfCode` is the inverse of the encoding. -/
theorem timerRunsFromSourceToChecksum : Obligations.TimerRunsFromSourceToChecksum := by
  refine ⟨fun p => ?values, fun p => decide_eq_true_iff, fun c => ?codes⟩
  case values => cases p <;> decide
  case codes => exact ⟨posOfCode c, stCode_posOfCode c, fun p hp => by rw [← hp, posOfCode_stCode]⟩

end Sys2Proof.Machine
end

section
/-! What the operations write: the parameter never (R33), and every other register only as R21 to R27 say. -/

namespace Sys2Proof.Machine

variable {s t : State}

/-- What every FEED of a run keeps, the run keeps. -/
theorem feedAll_keeps {P : State → Prop} (hP : ∀ b s t, execFeed b s = .next t → P s → P t) (bs : List Byte) (hs : P s)
    (h : feedAll bs s = .next t) : P t := by
  induction bs generalizing s with
  | nil =>
    cases h
    exact hs
  | cons b bs ih =>
    obtain ⟨u, hu, ht⟩ := andThen_eq_next.mp h
    exact ih (hP b s u hu hs) ht

/-- What a statement keeps, any number of them keep. -/
theorem repeatStep_keeps {P : State → Prop} {f : State → Host.Outcome State Fault Refusal}
    (hP : ∀ s t, f s = .next t → P s → P t) (n : Nat) (hs : P s) (h : repeatStep f n s = .next t) : P t := by
  induction n generalizing s with
  | zero =>
    cases h
    exact hs
  | succ n ih =>
    obtain ⟨u, hu, ht⟩ := andThen_eq_next.mp h
    exact ih (hP s u hu hs) ht

theorem feedAll_cfg {bs : List Byte} (h : feedAll bs s = .next t) : t.cfg = s.cfg :=
  feedAll_keeps (P := fun u => u.cfg = s.cfg) (fun b u _ hv hu => (execFeed_keeps b u hv).1.trans hu) bs rfl h

/-- A FRAME that runs is the FEEDs of the packet's frame (R70). -/
theorem execFrame_next {dst src cmd : Byte} {data : List Byte} (h : execFrame dst src cmd data s = .next t) :
    feedAll (frameOf { dst := dst, src := src, cmd := cmd, data := data }) s = .next t :=
  withPacket_next h

theorem exec_cfg {i : Instr} (h : exec i s = .next t) : t.cfg = s.cfg := by
  cases i with
  | reset =>
    cases h
    rfl
  | idle =>
    cases h
    rfl
  | feed b => exact (execFeed_keeps b s h).1
  | feedtick b => exact (execFeed_keeps b s h).1
  | tick => exact (execTick_keeps s h).1
  | checksum p => rw [execChecksum_next h]
  | encode p => rw [execEncode_next h]
  | isResponse p => rw [execIsResponse_next h]
  | responseRequired p => rw [execResponseRequired_next h]
  | feedBuffer bs => exact feedAll_cfg h
  | frame dst src cmd data => exact feedAll_cfg (execFrame_next h)
  | tickN n =>
    exact repeatStep_keeps (P := fun u => u.cfg = s.cfg) (fun u _ hv hu => (execTick_keeps u hv).1.trans hu) n rfl h
  | idleN n =>
    refine repeatStep_keeps (P := fun u => u.cfg = s.cfg) (fun u v hv hu => ?_) n rfl h
    cases hv
    exact hu

/-- Settles O57: a port's value and the outside world's fields are not the parameter, and no instruction writes it. -/
theorem parameterNeverWritten : Obligations.ParameterNeverWritten := by
  refine ⟨fun i s t h => exec_cfg h, fun s t h => ?_⟩
  obtain ⟨input, envTime, ⟨w, hw⟩ | ⟨v, rfl⟩⟩ := step_next h
  · exact (exec_cfg hw).trans rfl
  · rfl

/-- The header registers and `len` under FEED: each is written in the one position that captures it, to the byte fed (R21 to R24). -/
theorem execFeed_captures {b : Byte} (h : execFeed b s = .next t) :
    (t.dst = if s.st = .address then b else s.dst) ∧ (t.src = if s.st = .source then b else s.src) ∧
      (t.cmd = if s.st = .command then b else s.cmd) ∧ (t.len = if s.st = .datalen then b else s.len) := by
  obtain ⟨hst, rfl⟩ | ⟨hst, rfl⟩ | ⟨hst, rfl⟩ | ⟨hst, rfl⟩ | ⟨hst, rfl⟩ | ⟨hst, rfl⟩ | ⟨hst, -, rfl⟩ | ⟨hst, -, rfl⟩ |
    ⟨hst, -, rfl⟩ | ⟨hst, -, rfl⟩ := execFeed_next h <;> rw [hst] <;> exact ⟨rfl, rfl, rfl, rfl⟩

/-- `idx` under FEED (R25); the last case is DATA with `idx = 255` (log 8). -/
theorem execFeed_idx {b : Byte} (h : execFeed b s = .next t) :
    t.idx = s.idx ∨ (s.st = .datalen ∧ t.idx = 0) ∨ (s.st = .data ∧ s.idx.toNat ≤ 254 ∧ t.idx = s.idx + 1) ∨
      (s.st = .data ∧ s.idx.toNat = 255) := by
  obtain ⟨-, rfl⟩ | ⟨-, rfl⟩ | ⟨-, rfl⟩ | ⟨-, rfl⟩ | ⟨-, rfl⟩ | ⟨hst, rfl⟩ | ⟨hst, hi, rfl⟩ | ⟨-, -, rfl⟩ |
    ⟨-, -, rfl⟩ | ⟨hst, hi, rfl⟩ := execFeed_next h
  · exact .inl rfl
  · exact .inl rfl
  · exact .inl rfl
  · exact .inl rfl
  · exact .inl rfl
  · exact .inr (.inl ⟨hst, rfl⟩)
  · exact .inr (.inr (.inl ⟨hst, hi, rfl⟩))
  · exact .inl rfl
  · exact .inl rfl
  · exact .inr (.inr (.inr ⟨hst, hi⟩))

/-- The buffer under FEED: it is written in DATA, at `idx`, where that entry exists (R26, R40). -/
theorem execFeed_buf {b : Byte} (h : execFeed b s = .next t) :
    t.buf = s.buf ∨ s.st = .data ∧ s.idx.toNat ≤ 254 ∧ t.buf = Memory.write s.buf s.idx.toNat b := by
  obtain ⟨-, rfl⟩ | ⟨-, rfl⟩ | ⟨-, rfl⟩ | ⟨-, rfl⟩ | ⟨-, rfl⟩ | ⟨-, rfl⟩ | ⟨hst, hi, rfl⟩ | ⟨-, -, rfl⟩ |
    ⟨-, -, rfl⟩ | ⟨-, -, rfl⟩ := execFeed_next h
  · exact .inl rfl
  · exact .inl rfl
  · exact .inl rfl
  · exact .inl rfl
  · exact .inl rfl
  · exact .inl rfl
  · exact .inr ⟨hst, hi, rfl⟩
  · exact .inl rfl
  · exact .inl rfl
  · exact .inl rfl

theorem execFeed_buf_read {b : Byte} (h : execFeed b s = .next t) {j : Nat}
    (hj : Memory.read t.buf j ≠ Memory.read s.buf j) : s.st = .data ∧ j = s.idx.toNat ∧ j ≤ 254 := by
  obtain hbuf | ⟨hst, hi, hbuf⟩ := execFeed_buf h <;> rw [hbuf] at hj
  · exact absurd rfl hj
  · have heq : j = s.idx.toNat := Decidable.byContradiction fun hne => hj (Memory.read_write_other _ b hne)
    exact ⟨hst, heq, heq ▸ hi⟩

/-- A register that a conditional write changed was written, and holds the value written. -/
theorem of_ite_ne {α : Type} {c : Prop} [Decidable c] {x y z : α} (h : z = if c then x else y) (hne : z ≠ y) : c ∧ x = z := by
  by_cases hc : c
  · exact ⟨hc, by rw [h, if_pos hc]⟩
  · exact absurd (h.trans (if_neg hc)) hne

/-- TICK writes none of the frame's registers and no entry of the buffer. -/
theorem execTick_frame (h : execTick s = .next t) :
    t.dst = s.dst ∧ t.src = s.src ∧ t.cmd = s.cmd ∧ t.len = s.len ∧ t.idx = s.idx ∧ t.buf = s.buf := by
  obtain ⟨-, h'⟩ | ⟨-, -, h'⟩ | ⟨-, -, h'⟩ := execTick_cases s <;> rw [h'] at h <;> cases h <;>
    exact ⟨rfl, rfl, rfl, rfl, rfl, rfl⟩

/-- `elapsed` under TICK (R27, R113). -/
theorem execTick_elapsed (h : execTick s = .next t) :
    t.elapsed = s.elapsed ∨ running s.st = true ∧ t.elapsed = if s.elapsed = s.cfg.tIB.val then 0 else s.elapsed + 1 := by
  obtain ⟨-, h'⟩ | ⟨hrun, he, h'⟩ | ⟨hrun, he, h'⟩ := execTick_cases s <;> rw [h'] at h <;> cases h
  · exact .inl rfl
  · exact .inr ⟨hrun, (if_pos he).symm⟩
  · exact .inr ⟨hrun, (if_neg he).symm⟩

/-- Settles O59: IDLE writes none of the registers, TICK only `elapsed`, and FEED each by the lemma about it. -/
theorem onlyNamedOperationsWrite : Obligations.OnlyNamedOperationsWrite := by
  intro w s t h hreset
  obtain ⟨hw, -⟩ | ⟨b, hw, h⟩ | ⟨hw, h⟩ | ⟨-, rfl⟩ := exec_decodeWord_next h
  · exact absurd hw hreset
  · obtain ⟨hdst, hsrc, hcmd, hlen⟩ := execFeed_captures h
    rw [hw]
    refine ⟨fun hne => ?_, fun hne => ?_, fun hne => ?_, fun hne => ?_, fun hne => ?_, fun j hj => ?_, fun hne => ?_⟩
    · obtain ⟨hst, rfl⟩ := of_ite_ne hdst hne
      exact ⟨rfl, hst⟩
    · obtain ⟨hst, rfl⟩ := of_ite_ne hsrc hne
      exact ⟨rfl, hst⟩
    · obtain ⟨hst, rfl⟩ := of_ite_ne hcmd hne
      exact ⟨rfl, hst⟩
    · obtain ⟨hst, rfl⟩ := of_ite_ne hlen hne
      exact ⟨rfl, hst⟩
    · exact ⟨b, rfl, (execFeed_idx h).resolve_left hne⟩
    · obtain ⟨hst, hidx, hle⟩ := execFeed_buf_read h hj
      exact ⟨hst, hidx, hle, b, rfl⟩
    · obtain ⟨he, -⟩ | ⟨he, hrun⟩ := execFeed_elapsed h
      · exact absurd he hne
      · exact .inl ⟨⟨b, rfl⟩, he, hrun⟩
  · obtain ⟨hdst, hsrc, hcmd, hlen, hidx, hbuf⟩ := execTick_frame h
    refine ⟨absurd hdst, absurd hsrc, absurd hcmd, absurd hlen, absurd hidx, fun j hj => absurd (by rw [hbuf]) hj, fun hne => ?_⟩
    exact .inr ⟨hw, (execTick_elapsed h).resolve_left hne⟩
  · exact ⟨absurd rfl, absurd rfl, absurd rfl, absurd rfl, absurd rfl, fun _ => absurd rfl, absurd rfl⟩

end Sys2Proof.Machine
end

section
/-! The ports and the deserializer do not interfere (R53, R151). -/

namespace Sys2Proof.Machine

/-- A function port has one value, fixed by its operand: in every state a use of it writes that value and nothing else. -/
theorem exec_next_of_usesPort {i : Instr} (hi : usesPort i = true) :
    ∃ v, ∀ s t, exec i s = .next t → t = { s with fnOut := v } := by
  cases i
  case checksum p => exact ⟨.byte (checksum p), fun _ _ => execChecksum_next⟩
  case encode p => exact ⟨.bytes (frameOf p), fun _ _ => execEncode_next⟩
  case isResponse p => exact ⟨.bit (isResponseBit p.cmd), fun _ _ => execIsResponse_next⟩
  case responseRequired p => exact ⟨.bit (responseRequiredBit p.cmd), fun _ _ => execResponseRequired_next⟩
  all_goals cases hi

/-- Settles O41: a function port's value is fixed before any state is given, and no use of a port writes anything else. -/
theorem portsLeaveDeserializerAlone : Obligations.PortsLeaveDeserializerAlone := by
  refine ⟨fun i s t hi h => ?frame, fun i s t s' t' hi h h' => ?sameValue, fun u s t h => ?portFrame⟩
  case frame =>
    obtain ⟨v, hv⟩ := exec_next_of_usesPort hi
    rw [hv s t h]
  case sameValue =>
    obtain ⟨v, hv⟩ := exec_next_of_usesPort hi
    rw [hv s t h, hv s' t' h']
  case portFrame =>
    obtain ⟨v, rfl⟩ := usePort_next h
    rfl

end Sys2Proof.Machine
end

section
/-! The cycle word (R61 to R63): the rows of the decode table as conditions on the control bits, and what the words of each row decode
to. -/

namespace Sys2Proof.Machine

variable {w w' : CycleWord}

/-- A masked word is the pattern when the two agree bit by bit. -/
theorem and_eq_iff_getLsbD {mask pattern : CycleWord} :
    w &&& mask = pattern ↔ ∀ i < 11, (w.getLsbD i && mask.getLsbD i) = pattern.getLsbD i := by
  simp only [BitVec.eq_of_getLsbD_eq_iff, BitVec.getLsbD_and]

theorem resetRow_iff : w &&& 0x400 = 0x400 ↔ w.getLsbD 10 = true := by
  simp only [and_eq_iff_getLsbD, Nat.forall_lt_succ_right]
  simp

theorem feedRow_iff : w &&& 0x500 = 0x100 ↔ w.getLsbD 10 = false ∧ w.getLsbD 8 = true := by
  simp only [and_eq_iff_getLsbD, Nat.forall_lt_succ_right]
  simp [and_comm]

theorem tickRow_iff : w &&& 0x700 = 0x200 ↔ w.getLsbD 10 = false ∧ w.getLsbD 8 = false ∧ w.getLsbD 9 = true := by
  simp only [and_eq_iff_getLsbD, Nat.forall_lt_succ_right]
  simp [and_comm]

theorem idleRow_iff : w &&& 0x700 = 0x000 ↔ w.getLsbD 10 = false ∧ w.getLsbD 8 = false ∧ w.getLsbD 9 = false := by
  simp only [and_eq_iff_getLsbD, Nat.forall_lt_succ_right]
  simp [and_comm]

/-- The rows do not overlap and leave no word out: the control bits, taken in the order of R62's priority, name the one row. -/
theorem decodeRows_filter_hits_length (w : CycleWord) : (decodeRows.filter fun r => r.hits w).length = 1 := by
  simp only [decodeRows, DecodeRow.hits, List.filter_cons, List.filter_nil, beq_iff_eq, resetRow_iff, feedRow_iff, tickRow_iff,
    idleRow_iff]
  cases w.getLsbD 10
  case true => simp
  case false =>
    cases w.getLsbD 8
    case true => simp
    case false => cases w.getLsbD 9 <;> simp

theorem decodeWord_feed (h10 : w.getLsbD 10 = false) (h8 : w.getLsbD 8 = true) :
    decodeWord w = .feed (w.extractLsb' 0 8) := by
  rw [decodeWord, rstBit, inValidBit, h10, h8]
  rfl

theorem decodeWord_no_byte (h10 : w.getLsbD 10 = false) (h8 : w.getLsbD 8 = false) :
    decodeWord w = if w.getLsbD 9 then .tick else .idle := by
  rw [decodeWord, rstBit, inValidBit, h10, h8]
  rfl

theorem decodeWord_tick (h10 : w.getLsbD 10 = false) (h8 : w.getLsbD 8 = false) (h9 : w.getLsbD 9 = true) :
    decodeWord w = .tick := by
  rw [decodeWord_no_byte h10 h8, if_pos h9]

theorem decodeWord_idle (h10 : w.getLsbD 10 = false) (h8 : w.getLsbD 8 = false) (h9 : w.getLsbD 9 = false) :
    decodeWord w = .idle := by
  rw [decodeWord_no_byte h10 h8, h9, if_neg Bool.false_ne_true]

/-- No FEED advances the timer: it leaves `elapsed` or restarts it at 0 (R62, R145). -/
theorem execFeed_elapsed_le {b : Byte} {s t : State} (h : execFeed b s = .next t) : t.elapsed ≤ s.elapsed := by
  obtain ⟨he, -⟩ | ⟨he, -⟩ := execFeed_elapsed h
  · exact Nat.le_of_eq he
  · exact he ▸ Nat.zero_le s.elapsed

/-- Settles O2: each row is a condition on the control bits, and under each condition the decoder has one answer. -/
theorem cycleWordsMatchExactlyOneRow : Obligations.CycleWordsMatchExactlyOneRow := by
  refine ⟨decodeRows_filter_hits_length, fun w h => ?reset, fun w h => ?feed, fun w h => ?tick, fun w h => ?idle,
    fun w h10 _ h8 => decodeWord_feed h10 h8, fun b s t h => execFeed_elapsed_le h⟩
  case reset => exact decodeWord_reset (resetRow_iff.mp h)
  case feed =>
    obtain ⟨h10, h8⟩ := feedRow_iff.mp h
    exact decodeWord_feed h10 h8
  case tick =>
    obtain ⟨h10, h8, h9⟩ := tickRow_iff.mp h
    exact decodeWord_tick h10 h8 h9
  case idle =>
    obtain ⟨h10, h8, h9⟩ := idleRow_iff.mp h
    exact decodeWord_idle h10 h8 h9

/-- A step reads nothing of an offered word but the operation it decodes to (R100). -/
theorem step_congr_of_decodeWord_eq (h : decodeWord w = decodeWord w') (s : State) (rest : List Stimulus) :
    step { s with input := .word w :: rest } = step { s with input := .word w' :: rest } := by
  show exec (decodeWord w) { s with input := rest } = exec (decodeWord w') { s with input := rest }
  rw [h]

/-- Settles O3: two words that differ only in ignored bits decode to the same operation. -/
theorem ignoredBitsHaveNoEffect : Obligations.IgnoredBitsHaveNoEffect := by
  refine ⟨fun w h10 h8 => decodeWord_feed h10 h8, fun w w' s rest h h' => ?reset, fun w w' s rest h10 h10' h8 h8' h9 => ?noByte⟩
  case reset => exact step_congr_of_decodeWord_eq (by rw [decodeWord_reset h, decodeWord_reset h']) s rest
  case noByte =>
    exact step_congr_of_decodeWord_eq (by rw [decodeWord_no_byte h10 h8, decodeWord_no_byte h10' h8', h9]) s rest

end Sys2Proof.Machine
end

section
/-! The output pins (R65, R66): the values they take by the event of a step, and the codes an event can put on them. -/

namespace Sys2Proof.Machine

variable {s t : State}

/-- The pins of `t` are those of its event, which loads or leaves the hold registers of `s`; a packet it shows is one (R65, R80). -/
structure PinsSetFrom (s t : State) : Prop where
  pktValid : t.pktValid = pktValidOf t.ev
  errValid : t.errValid = errValidOf t.ev
  errCode : t.errCode = errCodeOf t.ev
  oDst : t.oDst = holdOf t.ev (fun p => p.dst) s.oDst
  oSrc : t.oSrc = holdOf t.ev (fun p => p.src) s.oSrc
  oCmd : t.oCmd = holdOf t.ev (fun p => p.cmd) s.oCmd
  oLen : t.oLen = holdOf t.ev (fun p => BitVec.ofNat 8 p.data.length) s.oLen
  wf : ∀ p, t.ev = .packet p → p.wf = true

/-- A captured frame is a packet: its length is the value of a byte (R5, R80). -/
theorem capturedPacket_wf (s : State) : (capturedPacket s).wf = true := by
  have hlen := s.len.isLt
  simp only [Packet.wf, capturedPacket, Memory.readPrefix_length, decide_eq_true_eq]
  omega

/-- The emission of the captured frame is the one step of FEED that shows a packet (R109). -/
theorem PinsSetFrom.emit (s : State) : PinsSetFrom s (commit (.packet (capturedPacket s)) (toStart s)) := by
  refine ⟨rfl, rfl, rfl, rfl, rfl, rfl, rfl, fun p hp => ?_⟩
  cases hp
  exact capturedPacket_wf s

theorem PinsSetFrom.feed {b : Byte} (h : execFeed b s = .next t) : PinsSetFrom s t := by
  obtain ⟨-, rfl⟩ | ⟨-, rfl⟩ | ⟨-, rfl⟩ | ⟨-, rfl⟩ | ⟨-, rfl⟩ | ⟨-, rfl⟩ | ⟨-, -, rfl⟩ | ⟨-, -, rfl⟩ | ⟨-, -, rfl⟩ |
    ⟨-, -, rfl⟩ := execFeed_next h
  rotate_left 7
  · exact .emit s
  all_goals exact ⟨rfl, rfl, rfl, rfl, rfl, rfl, rfl, nofun⟩

theorem PinsSetFrom.tick (h : execTick s = .next t) : PinsSetFrom s t := by
  obtain ⟨-, h'⟩ | ⟨-, -, h'⟩ | ⟨-, -, h'⟩ := execTick_cases s <;> rw [h'] at h <;> cases h <;>
    exact ⟨rfl, rfl, rfl, rfl, rfl, rfl, rfl, nofun⟩

/-- Every cycle word but RESET sets the pins by its event (R65). -/
theorem PinsSetFrom.exec_decodeWord {w : CycleWord} (h : exec (decodeWord w) s = .next t) (hreset : decodeWord w ≠ .reset) :
    PinsSetFrom s t := by
  obtain ⟨hw, -⟩ | ⟨b, -, h⟩ | ⟨-, h⟩ | ⟨-, rfl⟩ := exec_decodeWord_next h
  · exact absurd hw hreset
  · exact .feed h
  · exact .tick h
  · exact ⟨rfl, rfl, rfl, rfl, rfl, rfl, rfl, nofun⟩

/-- No event is a packet and an error (R65). -/
theorem not_pktValidOf_and_errValidOf (ev : Event) : ¬(pktValidOf ev = true ∧ errValidOf ev = true) := by
  cases ev <;> simp

/-- Settles O32: the pins are set by the step's event, and each row of the table is the case of one event. -/
theorem pinsFollowEvent : Obligations.PinsFollowEvent := by
  intro w s t h hreset
  obtain ⟨hpkt, herr, hcode, hdst, hsrc, hcmd, hlen, hwf⟩ := PinsSetFrom.exec_decodeWord h hreset
  rw [hpkt, herr, hcode, hdst, hsrc, hcmd, hlen]
  refine ⟨fun hev => ?none, fun p hev => ?packet, fun hev => ?timeout, fun hev => ?corrupt, not_pktValidOf_and_errValidOf t.ev⟩
  case packet =>
    rw [hev]
    exact ⟨rfl, rfl, rfl, rfl, rfl, rfl, Packet.datalen_toNat (hwf p hev)⟩
  all_goals
    rw [hev]
    exact ⟨rfl, rfl, rfl, rfl, rfl, rfl, rfl⟩

/-- The codes of R66: never `0b11`, and each of the others says one thing of the event. -/
theorem errCodeOf_values (ev : Event) :
    errCodeOf ev ≠ 0b11 ∧ (errCodeOf ev = 0b00 ↔ errValidOf ev = false) ∧
      (errCodeOf ev = 0b01 ↔ ev = .error .packetTimeout) ∧ (errCodeOf ev = 0b10 ↔ ev = .error .corruptPacket) := by
  cases ev with
  | none => decide
  | packet p => simp
  | error e => cases e <;> decide

/-- Settles O34: pins that show an event have its code. -/
theorem errorCodesOfThePins : Obligations.ErrorCodesOfThePins := by
  refine ⟨⟨rfl, rfl, rfl, rfl⟩, fun s hs => ?_⟩
  obtain ⟨-, herr, hcode, -⟩ := hs
  rw [hcode, herr]
  exact errCodeOf_values s.ev

end Sys2Proof.Machine
end

section
/-! A packet operand at the function ports: the command bits, the framer and its refusal (R82 to R85). -/

namespace Sys2Proof.Machine

variable {p : Packet}

theorem execIsResponse_of_wf (h : p.wf = true) (s : State) :
    execIsResponse p s = .next { s with fnOut := .bit (isResponseBit p.cmd) } := if_pos h

theorem execResponseRequired_of_wf (h : p.wf = true) (s : State) :
    execResponseRequired p s = .next { s with fnOut := .bit (responseRequiredBit p.cmd) } := if_pos h

theorem execEncode_of_wf (h : p.wf = true) (s : State) : execEncode p s = .next { s with fnOut := .bytes (frameOf p) } :=
  if_pos h

theorem execEncode_of_not_wf (h : ¬p.wf = true) (s : State) : execEncode p s = .refused .notAPacket := if_neg h

theorem Packet.wf_iff : p.wf = true ↔ p.data.length ≤ 255 := decide_eq_true_iff

/-- Masking with one bit leaves that bit, or nothing (R82, R83). -/
theorem getLsbD_iff_and_twoPow_ne_zero (b : Byte) {i : Nat} (hi : i < 8) :
    b.getLsbD i = true ↔ b &&& BitVec.twoPow 8 i ≠ 0 := by
  have hbit : BitVec.twoPow 8 i ≠ 0 := by
    intro h
    have := congrArg (fun v => v.getLsbD i) h
    simp [hi] at this
  rw [BitVec.and_twoPow]
  cases b.getLsbD i
  case false => simp
  case true => simpa using hbit

/-- Settles O36: a packet operand is run, and the masks 0x40 and 0x80 are the bits 6 and 7. -/
theorem commandBitPorts : Obligations.CommandBitPorts := by
  intro p s hp
  refine ⟨?isResponse, getLsbD_iff_and_twoPow_ne_zero p.cmd (by decide), ?responseRequired,
    getLsbD_iff_and_twoPow_ne_zero p.cmd (by decide)⟩
  case isResponse => exact execIsResponse_of_wf hp s
  case responseRequired => exact execResponseRequired_of_wf hp s

/-- Settles O37: a packet operand is run, and its length fits the datalen byte. -/
theorem encodePortGivesFrame : Obligations.EncodePortGivesFrame := by
  intro p s hp
  exact ⟨frameOf p, execEncode_of_wf hp s, rfl, frameOf_length p, Packet.datalen_toNat hp⟩

/-- Settles O38: ENCODE runs or refuses by the check that the operand is a packet, and a refusal is no next state. -/
theorem encodeRefusesLongData : Obligations.EncodeRefusesLongData := by
  intro p s
  show (execEncode p s = .refused .notAPacket ↔ _) ∧ ((∃ t, execEncode p s = .next t) ↔ _)
  rw [← Packet.wf_iff, ← Nat.not_le, ← Packet.wf_iff]
  by_cases hwf : p.wf = true
  · simp [execEncode_of_wf hwf s, hwf]
  · simp [execEncode_of_not_wf hwf s, hwf]

end Sys2Proof.Machine
end

section
/-! The checksum as the byte sum of the bytes it covers, and the alterations that leave that sum (R81, R86, R88). -/

namespace Sys2Proof.Machine

theorem byteSum_perm {l m : List Byte} (h : l.Perm m) : byteSum l = byteSum m :=
  (h.map BitVec.toNat).sum_nat

/-- Replacing one byte moves the sum by the difference of the two bytes. -/
theorem byteSum_set {l : List Byte} {i : Nat} {x : Byte} (h : l[i]? = some x) (c : Byte) :
    byteSum (l.set i c) + x.toNat = byteSum l + c.toNat := by
  induction l generalizing i with
  | nil => cases h
  | cons a l ih =>
    cases i with
    | zero =>
      cases h
      simp only [List.set_cons_zero, byteSum_cons]
      omega
    | succ i =>
      have := ih h
      simp only [List.set_cons_succ, byteSum_cons]
      omega

/-- The checksum sees the covered bytes only through their sum modulo 256 (R81). -/
theorem checksum_congr {p q : Packet}
    (h : (p.dst.toNat + p.src.toNat + p.cmd.toNat + p.data.length + byteSum p.data) % 256 =
      (q.dst.toNat + q.src.toNat + q.cmd.toNat + q.data.length + byteSum q.data) % 256) : checksum p = checksum q :=
  BitVec.eq_of_toNat_eq (by rw [checksum_toNat, checksum_toNat, h])

/-- Settles O44: each alteration leaves the sum of the covered bytes. -/
theorem checksumBlindSpots : Obligations.ChecksumBlindSpots := by
  refine ⟨fun p d h => ?dataPermuted, fun p a b c h => ?headerPermuted, fun p i x h => ?exchanged, fun _ _ => checksum_congr,
    by decide, by decide⟩
  case dataPermuted => exact checksum_congr (by simp only [h.length_eq, byteSum_perm h])
  case headerPermuted =>
    have hsum := byteSum_perm h
    simp only [byteSum_cons, byteSum_nil] at hsum
    exact checksum_congr (by simp only; omega)
  case exchanged =>
    have hdst := byteSum_set h p.dst
    have hsrc := byteSum_set h p.src
    have hcmd := byteSum_set h p.cmd
    refine ⟨checksum_congr ?_, checksum_congr ?_, checksum_congr ?_⟩ <;> simp only [List.length_set] <;> omega

end Sys2Proof.Machine
end

section
/-! The frame check of R86: a frame as its two markers, the covered bytes and the checksum byte; and one replaced byte (R87). -/

namespace Sys2Proof.Machine

variable {n : Nat}

/-- The bytes the checksum covers: destination, source, command, datalen and data (R81). -/
def coveredBytes (p : Packet) : List Byte := p.dst :: p.src :: p.cmd :: BitVec.ofNat 8 p.data.length :: p.data

@[simp] theorem coveredBytes_length (p : Packet) : (coveredBytes p).length = 4 + p.data.length := by
  simp only [coveredBytes, List.length_cons]
  omega

theorem frameOf_eq (p : Packet) : frameOf p = sync0 :: sync1 :: (coveredBytes p ++ [checksum p]) := by
  simp [frameOf, coveredBytes]

theorem checksum_eq_byteSum_coveredBytes (p : Packet) : checksum p = BitVec.ofNat 8 (byteSum (coveredBytes p)) := by
  apply BitVec.eq_of_toNat_eq
  rw [checksum_toNat]
  simp only [coveredBytes, byteSum_cons, BitVec.toNat_ofNat]
  omega

/-- A list of a frame's length is two bytes, as many as the checksum covers, and one more. -/
theorem exists_frame_parts {f : List Byte} (h : f.length = 7 + n) :
    ∃ (a b : Byte) (l : List Byte) (x : Byte), f = a :: b :: (l ++ [x]) ∧ l.length = 4 + n := by
  match f, h with
  | a :: b :: c :: g, h =>
    refine ⟨a, b, (c :: g).dropLast, (c :: g).getLast (List.cons_ne_nil c g), by rw [List.dropLast_concat_getLast], ?_⟩
    simp only [List.length_cons, List.length_dropLast] at h ⊢
    omega
  | [], h | [_], h | [_, _], h =>
    simp only [List.length_cons, List.length_nil] at h
    omega

/-- As many bytes as the checksum covers are three header bytes, a datalen byte and the data. -/
theorem exists_covered_parts {l : List Byte} (h : l.length = 4 + n) :
    ∃ (d s c m : Byte) (ds : List Byte), l = d :: s :: c :: m :: ds ∧ ds.length = n := by
  match l, h with
  | d :: s :: c :: m :: ds, h =>
    simp only [List.length_cons] at h
    exact ⟨d, s, c, m, ds, rfl, by omega⟩
  | [], h | [_], h | [_, _], h | [_, _, _], h =>
    simp only [List.length_cons, List.length_nil] at h
    omega

/-- The four conditions of R86, on the parts of the frame. -/
theorem frameCheck_iff {a b x : Byte} {l : List Byte} (hl : l.length = 4 + n) :
    frameCheck n (a :: b :: (l ++ [x])) = true ↔
      a = sync0 ∧ b = sync1 ∧ (byteAt l 3).toNat = n ∧ x = BitVec.ofNat 8 (byteSum l) := by
  obtain ⟨d, s, c, m, ds, rfl, rfl⟩ := exists_covered_parts hl
  simp [frameCheck, byteAt, Nat.add_comm 6, and_assoc, Nat.add_assoc]

/-- Every packet's frame passes the check. -/
theorem frameCheck_frameOf {p : Packet} (hp : p.wf = true) : frameCheck p.data.length (frameOf p) = true := by
  rw [frameOf_eq, frameCheck_iff (coveredBytes_length p)]
  exact ⟨rfl, rfl, Packet.datalen_toNat hp, checksum_eq_byteSum_coveredBytes p⟩

/-- A list that passes the check is the frame of the packet it carries. -/
theorem eq_frameOf_of_frameCheck {f : List Byte} (hf : f.length = 7 + n) (h : frameCheck n f = true) :
    f = frameOf (packetOfFrame n f) ∧ (packetOfFrame n f).wf = true ∧ (packetOfFrame n f).data.length = n := by
  obtain ⟨a, b, l, x, rfl, hl⟩ := exists_frame_parts hf
  obtain ⟨rfl, rfl, hlen, hx⟩ := (frameCheck_iff hl).mp h
  obtain ⟨d, s, c, m, ds, rfl, hds⟩ := exists_covered_parts hl
  have hm : m.toNat = ds.length := hlen.trans hds.symm
  have hp : packetOfFrame n (sync0 :: sync1 :: (d :: s :: c :: m :: ds ++ [x])) = { dst := d, src := s, cmd := c, data := ds } := by
    simp [packetOfFrame, byteAt, ← hds]
  have hcovered : coveredBytes { dst := d, src := s, cmd := c, data := ds } = d :: s :: c :: m :: ds := by
    simp [coveredBytes, ← hm]
  rw [hp]
  refine ⟨?_, Packet.wf_iff.mpr ?_, hds⟩
  · rw [frameOf_eq, checksum_eq_byteSum_coveredBytes, hcovered, ← hx]
  · have := m.isLt
    show ds.length ≤ 255
    omega

/-- Two bytes are less than 256 apart, so replacing one changes the sum modulo 256. -/
theorem ofNat_byteSum_set_ne {l : List Byte} {i : Nat} {c : Byte} (hi : i < l.length) (hc : l[i]? ≠ some c) :
    BitVec.ofNat 8 (byteSum (l.set i c)) ≠ BitVec.ofNat 8 (byteSum l) := by
  intro h
  have hget := List.getElem?_eq_getElem hi
  have hsum := byteSum_set hget c
  have hmod : byteSum (l.set i c) % 256 = byteSum l % 256 := by simpa using congrArg BitVec.toNat h
  have hx := l[i].isLt
  have hlt := c.isLt
  refine hc (hget.trans (congrArg some (BitVec.eq_of_toNat_eq ?_)))
  omega

/-- Settles O43: a replaced covered byte changes the sum and leaves the checksum byte; a replaced checksum byte no longer is the sum. -/
theorem singleByteCorruptionFailsCheck : Obligations.SingleByteCorruptionFailsCheck := by
  intro p k c _ hk _ hlt hne
  obtain ⟨i, rfl⟩ : ∃ i, k = i + 2 := ⟨k - 2, by omega⟩
  have hcovered := coveredBytes_length p
  rw [frameOf_eq] at hne ⊢
  simp only [List.getElem?_cons_succ, List.set_cons_succ] at hne ⊢
  rw [Bool.eq_false_iff]
  intro hcheck
  by_cases hi : i < (coveredBytes p).length
  · rw [List.getElem?_append_left hi] at hne
    rw [List.set_append_left _ _ hi, frameCheck_iff (by rw [List.length_set, hcovered])] at hcheck
    obtain ⟨-, -, -, hsum⟩ := hcheck
    exact ofNat_byteSum_set_ne hi hne (hsum.symm.trans (checksum_eq_byteSum_coveredBytes p))
  · obtain rfl : i = (coveredBytes p).length := by omega
    rw [List.getElem?_concat_length] at hne
    rw [List.set_append_right _ _ (Nat.le_refl _), Nat.sub_self, List.set_cons_zero, frameCheck_iff hcovered] at hcheck
    obtain ⟨-, -, -, hsum⟩ := hcheck
    exact hne (congrArg some ((checksum_eq_byteSum_coveredBytes p).trans hsum.symm))

end Sys2Proof.Machine
end

section
/-! The frame check law (R86): the bytes of the frame in progress, what a FEED makes of them, and which byte lists emit a packet. -/

namespace Sys2Proof.Machine

variable {s t : State} {b : Byte} {bs : List Byte} {p : Packet}

/-- The bytes of the frame in progress that have come, as the registers hold them (R43). -/
def received (s : State) : List Byte :=
  match s.st with
  | .start => []
  | .leadin => [sync0]
  | .address => [sync0, sync1]
  | .source => [sync0, sync1, s.dst]
  | .command => [sync0, sync1, s.dst, s.src]
  | .datalen => [sync0, sync1, s.dst, s.src, s.cmd]
  | .data | .checksum => [sync0, sync1, s.dst, s.src, s.cmd, s.len] ++ Memory.readPrefix s.buf s.idx.toNat

theorem received_start (h : s.st = .start) : received s = [] := by simp [received, h]

theorem received_data (h : s.st = .checksum ∨ s.st = .data) :
    received s = [sync0, sync1, s.dst, s.src, s.cmd, s.len] ++ Memory.readPrefix s.buf s.idx.toNat := by
  obtain h | h := h <;> simp [received, h]

/-- Whether the last data byte has come or not, the codec is in CHECKSUM or in DATA (R107, R108). -/
theorem ite_checksum_data (c : Prop) [Decidable c] :
    (if c then Pos.checksum else .data) = .checksum ∨ (if c then Pos.checksum else .data) = .data := by
  by_cases hc : c
  · exact .inl (if_pos hc)
  · exact .inr (if_neg hc)

/-- Writing the entry after the first `i` appends to them. -/
theorem Memory.readPrefix_write {m : Memory} (hm : Memory.wf m = true) (i : Nat) (b : Byte) :
    Memory.readPrefix (Memory.write m i b) (i + 1) = Memory.readPrefix m i ++ [b] := by
  rw [Memory.readPrefix_succ, Memory.read_write_same hm]
  congr 1
  exact readPrefix_congr fun j hj => Memory.read_write_other m b (Nat.ne_of_lt hj)

/-- From `s` to `t` the bytes `bs` went on with the frame in progress, and no event came. -/
structure Extends (s : State) (bs : List Byte) (t : State) : Prop where
  bytes : received t = received s ++ bs
  log : t.log = s.log

/-- Why a FEED does not go on with the frame in progress: no marker, no lead-in byte, or the checksum byte, which ends the frame. -/
def EndsFrame (s : State) (b : Byte) : Prop :=
  s.st = .start ∧ b ≠ sync0 ∨ s.st = .leadin ∧ b ≠ sync1 ∨ s.st = .checksum

/-- A FEED appends its byte to the frame in progress, or leaves the codec in START. -/
theorem execFeed_extends (hs : CountInv s) (h : execFeed b s = .next t) :
    Extends s [b] t ∨ EndsFrame s b ∧ received t = [] := by
  obtain ⟨hst, rfl⟩ | ⟨hst, rfl⟩ | ⟨hst, rfl⟩ | ⟨hst, rfl⟩ | ⟨hst, rfl⟩ | ⟨hst, rfl⟩ | ⟨hst, hi, rfl⟩ | ⟨hst, -, rfl⟩ |
    ⟨hst, -, rfl⟩ | ⟨hst, hi, rfl⟩ := execFeed_next h
  · by_cases hb : b = sync0
    · exact .inl ⟨by simp [received, hst, hb], by simp⟩
    · exact .inr ⟨.inl ⟨hst, hb⟩, received_start (by simp [hst, hb])⟩
  · by_cases hb : b = sync1
    · exact .inl ⟨by simp [received, hst, hb], by simp⟩
    · exact .inr ⟨.inr (.inl ⟨hst, hb⟩), received_start (by simp [hb])⟩
  · exact .inl ⟨by simp [received, hst], by simp⟩
  · exact .inl ⟨by simp [received, hst], by simp⟩
  · exact .inl ⟨by simp [received, hst], by simp⟩
  · refine .inl ⟨?_, by simp⟩
    rw [received_data (ite_checksum_data _)]
    simp [received, hst, Memory.readPrefix]
  · refine .inl ⟨?_, by simp⟩
    rw [received_data (ite_checksum_data _), received_data (.inr hst)]
    simp only [silent_idx, silent_buf, toNat_idx_succ hi, Memory.readPrefix_write hs.buf, List.append_assoc]
    rfl
  · exact .inr ⟨.inr (.inr hst), received_start rfl⟩
  · exact .inr ⟨.inr (.inr hst), received_start rfl⟩
  · have hlt := hs.data hst
    have hlen := s.len.isLt
    omega

theorem Extends.cons {u : State} (h : Extends s [b] t) (h' : Extends t bs u) : Extends s (b :: bs) u :=
  ⟨by rw [h'.bytes, h.bytes, List.append_assoc, List.singleton_append], h'.log.trans h.log⟩

/-- While bytes before the checksum byte of a packet's frame come, no FEED ends the frame. -/
theorem not_endsFrame (hp : p.wf = true) (hs : CountInv s) (h : received s ++ b :: bs = sync0 :: sync1 :: coveredBytes p) :
    ¬EndsFrame s b := by
  rintro (⟨hst, hb⟩ | ⟨hst, hb⟩ | hst)
  · simp [received, hst, hb] at h
  · simp [received, hst, hb] at h
  · rw [received_data (.inl hst)] at h
    simp only [coveredBytes, List.cons_append, List.nil_append, List.cons.injEq, true_and] at h
    obtain ⟨-, -, -, hlen, hdata⟩ := h
    have hcount := congrArg List.length hdata
    have hfit := Packet.datalen_toNat hp
    rw [List.length_append, Memory.readPrefix_length, hs.checksum hst, hlen, hfit, List.length_cons] at hcount
    omega

theorem feedAll_extends (hp : p.wf = true) (hs : CountInv s) (h : received s ++ bs = sync0 :: sync1 :: coveredBytes p) :
    ∃ t, feedAll bs s = .next t ∧ CountInv t ∧ Extends s bs t := by
  induction bs generalizing s with
  | nil => exact ⟨s, rfl, hs, by simp, rfl⟩
  | cons b bs ih =>
    obtain ⟨u, hu⟩ := execFeed_completes b s
    obtain hext | ⟨hends, -⟩ := execFeed_extends hs hu
    · obtain ⟨t, ht, htinv, hut⟩ := ih (hs.feed hu) (by rw [hext.bytes, List.append_assoc, List.singleton_append, h])
      exact ⟨t, by rw [feedAll, hu, andThen_next, ht], htinv, hext.cons hut⟩
    · exact absurd hends (not_endsFrame hp hs h)

/-- Once all bytes but the checksum byte have come, the codec awaits that byte and holds the packet. -/
theorem capturedPacket_of_received (hp : p.wf = true) (hs : CountInv s) (h : received s = sync0 :: sync1 :: coveredBytes p) :
    s.st = .checksum ∧ capturedPacket s = p := by
  have hfit := Packet.datalen_toNat hp
  cases hst : s.st
  case data =>
    rw [received_data (.inr hst)] at h
    simp only [coveredBytes, List.cons_append, List.nil_append, List.cons.injEq, true_and] at h
    obtain ⟨-, -, -, hlen, hdata⟩ := h
    have hcount := congrArg List.length hdata
    have hlt := hs.data hst
    rw [Memory.readPrefix_length] at hcount
    rw [hlen, hfit, hcount] at hlt
    exact absurd hlt (Nat.lt_irrefl _)
  case checksum =>
    rw [received_data (.inl hst), hs.checksum hst] at h
    simp only [coveredBytes, List.cons_append, List.nil_append, List.cons.injEq, true_and] at h
    obtain ⟨hdst, hsrc, hcmd, -, hdata⟩ := h
    exact ⟨rfl, by rw [capturedPacket, hdst, hsrc, hcmd, hdata]⟩
  all_goals simp [received, hst, coveredBytes] at h

/-- A packet's frame fed from START emits the packet, and no other event (R86, R109). -/
theorem feedAll_frameOf (hp : p.wf = true) (hst : s.st = .start) (hb : Memory.wf s.buf = true) :
    ∃ u, feedAll (frameOf p) s = .next (commit (.packet p) (toStart u)) ∧ u.log = s.log := by
  have hs : CountInv s := .of_st_ne (by simp [hst]) (by simp [hst]) hb
  have hstart := received_start hst
  obtain ⟨u, hu, huinv, hext⟩ := feedAll_extends hp hs (bs := sync0 :: sync1 :: coveredBytes p) (by rw [hstart, List.nil_append])
  obtain ⟨hck, rfl⟩ := capturedPacket_of_received hp huinv (by rw [hext.bytes, hstart, List.nil_append])
  refine ⟨u, ?_, hext.log⟩
  rw [frameOf_eq, ← List.cons_append, ← List.cons_append, feedAll_append, hu, andThen_next, feedAll, execFeed_checksum _ _ hck,
    andThen_next, feedChecksum, if_pos rfl, feedAll]

/-- The frame in progress after a run of FEEDs is made of the last bytes fed. -/
theorem received_suffix (hs : CountInv s) (h : feedAll bs s = .next t) : received t <:+ received s ++ bs := by
  induction bs generalizing s with
  | nil =>
    cases h
    exact ⟨[], (List.append_nil _).symm⟩
  | cons b bs ih =>
    obtain ⟨u, hu, ht⟩ := andThen_eq_next.mp h
    have hstep : received u <:+ received s ++ [b] := by
      obtain hext | ⟨-, hnil⟩ := execFeed_extends hs hu
      · exact ⟨[], hext.bytes⟩
      · rw [hnil]
        exact List.nil_suffix
    obtain ⟨pre, hpre⟩ := hstep
    refine (ih (hs.feed hu) ht).trans ⟨pre, ?_⟩
    rw [← List.append_assoc, hpre, List.append_assoc, List.singleton_append]

/-- Only the checksum byte of the frame in progress emits a packet: the one captured (R109). -/
theorem execFeed_emits (h : execFeed b s = .next t) (hev : t.ev = .packet p) :
    s.st = .checksum ∧ b = checksum p ∧ capturedPacket s = p := by
  obtain ⟨-, rfl⟩ | ⟨-, rfl⟩ | ⟨-, rfl⟩ | ⟨-, rfl⟩ | ⟨-, rfl⟩ | ⟨-, rfl⟩ | ⟨-, -, rfl⟩ | ⟨hst, hb, rfl⟩ | ⟨-, -, rfl⟩ |
    ⟨-, -, rfl⟩ := execFeed_next h
  rotate_left 7
  · cases hev
    exact ⟨hst, hb, rfl⟩
  all_goals cases hev

/-- The frame in progress that awaits its checksum byte is all but that byte of the captured packet's frame. -/
theorem received_append_checksum (hs : CountInv s) (hst : s.st = .checksum) :
    received s ++ [checksum (capturedPacket s)] = frameOf (capturedPacket s) := by
  rw [received_data (.inl hst), hs.checksum hst, frameOf_eq]
  simp [coveredBytes, capturedPacket]

/-- A list of a frame's length, fed from START, whose last FEED emits a packet with all of its data bytes, is that packet's frame: the
frame emitted has as many bytes and is a suffix of the list. -/
theorem eq_frameOf_of_emits (hst : s.st = .start) (hb : Memory.wf s.buf = true) (h : feedAll bs s = .next t)
    (hev : t.ev = .packet p) (hlen : bs.length = 7 + p.data.length) : bs = frameOf p ∧ p.wf = true := by
  have hs : CountInv s := .of_st_ne (by simp [hst]) (by simp [hst]) hb
  obtain rfl | ⟨g, b, rfl⟩ := List.eq_nil_or_concat bs
  · simp only [List.length_nil] at hlen
    omega
  rw [List.concat_eq_append] at h hlen ⊢
  rw [feedAll_append] at h
  obtain ⟨u, hu, ht⟩ := andThen_eq_next.mp h
  rw [feedAll] at ht
  obtain ⟨v, hv, ht⟩ := andThen_eq_next.mp ht
  cases ht
  obtain ⟨hck, rfl, rfl⟩ := execFeed_emits hv hev
  have hframe := received_append_checksum (feedAll_keeps (fun _ _ _ hf hw => hw.feed hf) g hs hu) hck
  have hsuffix := received_suffix hs hu
  rw [received_start hst, List.nil_append] at hsuffix
  have hg : received u = g := by
    refine hsuffix.eq_of_length ?_
    have := congrArg List.length hframe
    rw [frameOf_length, ← hlen, List.length_append, List.length_append] at this
    exact Nat.add_right_cancel this
  exact ⟨by rw [← hframe, hg], capturedPacket_wf u⟩

/-- Settles O42: a list that passes the check is a packet's frame, which emits the packet; a list that emits one is its frame, which
passes the check. -/
theorem frameCheckLaw : Obligations.FrameCheckLaw := by
  intro s f n hst hb hf
  have haccept (h : frameCheck n f = true) : ∃ t, exec (.feedBuffer f) s = .next t ∧ t.ev = .packet (packetOfFrame n f) ∧
      t.log = s.log ++ [.packet (packetOfFrame n f)] := by
    obtain ⟨hframe, hwf, -⟩ := eq_frameOf_of_frameCheck hf h
    obtain ⟨u, hu, hlog⟩ := feedAll_frameOf hwf hst hb
    rw [← hframe] at hu
    exact ⟨_, hu, rfl, by simp [hlog]⟩
  refine ⟨⟨?emitsOnly, fun h => ?emits⟩, fun h => ⟨(eq_frameOf_of_frameCheck hf h).1, haccept h⟩⟩
  case emitsOnly =>
    rintro ⟨q, t, rfl, ht, hev⟩
    obtain ⟨rfl, hwf⟩ := eq_frameOf_of_emits hst hb ht hev hf
    exact frameCheck_frameOf hwf
  case emits =>
    obtain ⟨-, -, hlen⟩ := eq_frameOf_of_frameCheck hf h
    obtain ⟨t, ht, hev, -⟩ := haccept h
    exact ⟨_, t, hlen, ht, hev⟩

end Sys2Proof.Machine
end

section
/-! Cycles with no byte: what TICKs and IDLEs in any order come to (R112 to R114), and the timeout after them (R119). -/

namespace Sys2Proof.Machine

variable {s t u : State} {gap : List Bool}

theorem execTick_stopped (h : running s.st = false) : execTick s = .next (silent s) := by
  simp [execTick, h]

theorem execTick_timeout (hrun : running s.st = true) (he : s.elapsed = s.cfg.tIB.val) :
    execTick s = .next (raiseError .packetTimeout s) := by
  simp [execTick, hrun, he]

theorem execTick_counts (hrun : running s.st = true) (he : s.elapsed ≠ s.cfg.tIB.val) :
    execTick s = .next (silent { s with elapsed := s.elapsed + 1 }) := by
  simp [execTick, hrun, he]

theorem runAll_append (is js : List Instr) (s : State) : runAll (is ++ js) s = andThen (runAll is s) (runAll js) := by
  induction is generalizing s with
  | nil => rfl
  | cons i is ih =>
    simp only [List.cons_append, runAll, andThen_assoc]
    congr 1
    funext u
    exact ih u

/-- `t` is `s` but for the timer, the event of the last cycle and its three pins: what cycles with no byte come to while no timeout
comes. -/
def Waits (s t : State) : Prop := silent t = silent { s with elapsed := t.elapsed }

theorem Waits.silent_eq (h : Waits s t) : silent t = silent { s with elapsed := t.elapsed } := h

theorem Waits.refl (s : State) : Waits s s := rfl

theorem Waits.trans (h : Waits s t) (h' : Waits t u) : Waits s u :=
  Eq.trans h' (congrArg (fun x => { x with elapsed := u.elapsed }) h.silent_eq)

/-- The end of a step with the event `NONE`, done twice, is done once. -/
theorem silent_silent (s : State) : silent (silent s) = silent s := by
  simp only [silent_eq]

theorem Waits.of_silent (s : State) (n : Nat) : Waits s (silent { s with elapsed := n }) :=
  silent_silent _

theorem Waits.st (h : Waits s t) : t.st = s.st := by
  simpa using congrArg State.st h.silent_eq

theorem Waits.cfg (h : Waits s t) : t.cfg = s.cfg := by
  simpa using congrArg State.cfg h.silent_eq

theorem Waits.log (h : Waits s t) : t.log = s.log := by
  simpa using congrArg State.log h.silent_eq

/-- While no timeout comes, cycles with no byte only count their TICKs, and these only if the timer runs (R112 to R114). -/
theorem runAll_pauses (hfit : running s.st = true → s.elapsed + gap.count true ≤ s.cfg.tIB.val) :
    ∃ t, runAll (pauses gap) s = .next t ∧ Waits s t ∧
      t.elapsed = s.elapsed + if running s.st then gap.count true else 0 := by
  induction gap generalizing s with
  | nil => exact ⟨s, rfl, .refl s, by simp⟩
  | cons isTick gap ih =>
    have hcycle : ∃ u, exec (if isTick then .tick else .idle) s = .next u ∧ Waits s u ∧
        u.elapsed = s.elapsed + if running s.st then [isTick].count true else 0 := by
      cases isTick
      case false => exact ⟨_, rfl, .of_silent s s.elapsed, by simp⟩
      case true =>
        cases hrun : running s.st
        case false => exact ⟨_, execTick_stopped hrun, .of_silent s s.elapsed, by simp⟩
        case true =>
          have hlt := hfit hrun
          rw [List.count_cons_self] at hlt
          exact ⟨_, execTick_counts hrun (by omega), .of_silent s _, by simp⟩
    obtain ⟨u, hu, hsu, heu⟩ := hcycle
    rw [← List.singleton_append, List.count_append] at hfit ⊢
    obtain ⟨t, ht, hut, het⟩ := ih (s := u) fun hrun => by
      rw [hsu.st] at hrun
      have := hfit hrun
      rw [hsu.cfg, heu, if_pos hrun]
      omega
    refine ⟨t, ?_, hsu.trans hut, ?_⟩
    · show andThen (exec _ s) _ = _
      rw [hu, andThen_next]
      exact ht
    · rw [het, heu, hsu.st, Nat.add_assoc]
      split <;> rfl

/-- Once `elapsed` has reached `T_IB` with no byte, one more TICK times the frame out (R113). -/
theorem runAll_pauses_timeout (hrun : running s.st = true) (hfull : s.elapsed + gap.count true = s.cfg.tIB.val) :
    ∃ u, runAll (pauses gap) s = .next u ∧ Waits s u ∧ u.elapsed = s.cfg.tIB.val ∧
      runAll (pauses (gap ++ [true])) s = .next (raiseError .packetTimeout u) := by
  obtain ⟨u, hu, hsu, heu⟩ := runAll_pauses fun _ => Nat.le_of_eq hfull
  rw [if_pos hrun, hfull] at heu
  refine ⟨u, hu, hsu, heu, ?_⟩
  have htick : execTick u = .next (raiseError .packetTimeout u) :=
    execTick_timeout (by rw [hsu.st, hrun]) (by rw [heu, hsu.cfg])
  rw [pauses, List.map_append, runAll_append]
  show andThen (runAll (pauses gap) s) _ = _
  rw [hu, andThen_next]
  show andThen (execTick u) _ = _
  rw [htick]
  rfl

/-- Settles O47: the ticks that bring `elapsed` to `T_IB` are counted, the next one times out, and a stopped timer counts none. -/
theorem timeoutAfterIdleTicks : Obligations.TimeoutAfterIdleTicks := by
  refine ⟨fun s gap hrun hfull => ?running, fun s gap hstop => ?stopped⟩
  case running =>
    obtain ⟨u, hu, hsu, heu, ht⟩ := runAll_pauses_timeout hrun hfull
    exact ⟨u, _, hu, hsu.st, heu, hsu.log, ht, rfl, by simp [hsu.log], rfl, rfl⟩
  case stopped =>
    obtain ⟨t, ht, hst, het⟩ := runAll_pauses (s := s) (gap := gap) fun hrun => absurd hrun (by simp [hstop])
    exact ⟨t, ht, hst.st, by simpa [hstop] using het, hst.log⟩

end Sys2Proof.Machine
end

section
/-! Frames fed with gaps of byteless cycles (R118), and frames with one byte changed (R120). -/

namespace Sys2Proof.Machine

variable {s t u : State} {p : Packet} {bs : List Byte} {b : Byte} {gaps : List (List Bool)} {gap : List Bool}

/-- The frame in progress is read from registers that cycles with no byte leave. -/
theorem Waits.received (h : Waits s t) : received t = received s := by
  have hsilent (v : State) : Machine.received (silent v) = Machine.received v := rfl
  rw [← hsilent t, h.silent_eq]
  rfl

theorem Waits.countInv (h : Waits s t) (hs : CountInv s) : CountInv t := by
  have hidx : t.idx = s.idx := by simpa using congrArg State.idx h.silent_eq
  have hlen : t.len = s.len := by simpa using congrArg State.len h.silent_eq
  have hbuf : t.buf = s.buf := by simpa using congrArg State.buf h.silent_eq
  refine ⟨fun hd => ?_, fun hc => ?_, hbuf ▸ hs.buf⟩
  · rw [hidx, hlen]
    exact hs.data (h.st ▸ hd)
  · rw [hidx, hlen]
    exact hs.checksum (h.st ▸ hc)

/-- The timer runs once the markers and the destination byte have come (R28). -/
theorem running_iff_received_length : running s.st = true ↔ 3 ≤ (received s).length := by
  cases hst : s.st <;> simp [received, hst, running, stCode]

/-- No TICK has come since the last byte that restarts the timer. -/
def Restarted (s : State) : Prop := running s.st = true → s.elapsed = 0

/-- A FEED restarts the timer wherever it leaves it running (R104 to R109). -/
theorem restarted_of_execFeed (h : execFeed b s = .next t) : Restarted t := by
  intro hrun
  obtain ⟨-, hst⟩ | ⟨he, -⟩ := execFeed_elapsed h
  · obtain hst | hst := hst
    · rw [execFeed_start b s hst] at h
      cases h
      revert hrun
      simp only [feedStart, silent_st, hst]
      split <;> exact nofun
    · rw [execFeed_leadin b s hst] at h
      cases h
      revert hrun
      simp only [feedLeadin, silent_st]
      split <;> exact nofun
  · exact he

/-- Gap `j` stands before byte `j` of those still to come: none in which the timer runs holds more than `T_IB` ticks (R118). -/
def GapsFit (s : State) (gaps : List (List Bool)) : Prop :=
  ∀ (j : Nat) (gap : List Bool), 3 ≤ (received s).length + j → gaps[j]? = some gap → gap.count true ≤ s.cfg.tIB.val

theorem GapsFit.head (h : GapsFit s gaps) (hrun : running s.st = true) : (gaps.headD []).count true ≤ s.cfg.tIB.val := by
  cases gaps with
  | nil => exact Nat.zero_le _
  | cons gap gaps => exact h 0 gap (running_iff_received_length.mp hrun) rfl

theorem GapsFit.tail (h : GapsFit s gaps) (hlen : (received t).length = (received s).length + 1) (hcfg : t.cfg = s.cfg) :
    GapsFit t gaps.tail := by
  intro j gap hj hgap
  rw [hcfg]
  exact h (j + 1) gap (by omega) (by rwa [List.getElem?_tail] at hgap)

theorem paced_nil_right (gaps : List (List Bool)) : paced gaps [] = [] := by
  cases gaps <;> rfl

theorem paced_nil_left (bs : List Byte) : paced [] bs = bs.map .feed := by
  cases bs <;> rfl

/-- Bytes beyond the last gap are fed with none. -/
theorem paced_cons (gaps : List (List Bool)) (b : Byte) (bs : List Byte) :
    paced gaps (b :: bs) = pauses (gaps.headD []) ++ .feed b :: paced gaps.tail bs := by
  cases gaps with
  | nil => simp [paced_nil_left, pauses]
  | cons gap gaps => rfl

theorem runAll_map_feed (bs : List Byte) (s : State) : runAll (bs.map .feed) s = feedAll bs s := by
  induction bs generalizing s with
  | nil => rfl
  | cons b bs ih =>
    simp only [List.map_cons, runAll, feedAll]
    congr 1
    funext u
    exact ih u

/-- Cycles with no byte that fit the timer, and then a FEED. -/
theorem runAll_pauses_feed (is : List Instr) (hs : Restarted s) (hgap : running s.st = true → gap.count true ≤ s.cfg.tIB.val) :
    ∃ u, Waits s u ∧ runAll (pauses gap ++ .feed b :: is) s = andThen (execFeed b u) (runAll is) := by
  obtain ⟨u, hu, hsu, -⟩ := runAll_pauses (s := s) (gap := gap) fun hrun => by
    rw [hs hrun, Nat.zero_add]
    exact hgap hrun
  exact ⟨u, hsu, by rw [runAll_append, hu]; rfl⟩

theorem runAll_paced_concat (hp : p.wf = true) (hs : CountInv s) (hr : Restarted s) (hfit : GapsFit s gaps)
    (h : received s ++ bs = sync0 :: sync1 :: coveredBytes p) :
    ∃ u, runAll (paced gaps (bs ++ [b])) s = .next (feedChecksum b u) ∧ capturedPacket u = p ∧ u.log = s.log := by
  induction bs generalizing s gaps with
  | nil =>
    rw [List.append_nil] at h
    obtain ⟨u, hsu, hrun⟩ := runAll_pauses_feed (b := b) [] hr hfit.head
    obtain ⟨hck, hcap⟩ := capturedPacket_of_received hp (hsu.countInv hs) (hsu.received.trans h)
    refine ⟨u, ?_, hcap, hsu.log⟩
    rw [List.nil_append, paced_cons, paced_nil_right, hrun, execFeed_checksum b u hck]
    rfl
  | cons a bs ih =>
    obtain ⟨v, hsv, hrun⟩ := runAll_pauses_feed (b := a) (paced gaps.tail (bs ++ [b])) hr hfit.head
    have hv := hsv.countInv hs
    have hrest : received v ++ a :: bs = sync0 :: sync1 :: coveredBytes p := by rw [hsv.received, h]
    obtain ⟨w, hw⟩ := execFeed_completes a v
    obtain hext | ⟨hends, -⟩ := execFeed_extends hv hw
    · have hlen : (received w).length = (received s).length + 1 := by
        rw [hext.bytes, hsv.received, List.length_append, List.length_singleton]
      have hcfg : w.cfg = s.cfg := (execFeed_keeps a v hw).1.trans hsv.cfg
      obtain ⟨u, hu, hcap, hlog⟩ := ih (hv.feed hw) (restarted_of_execFeed hw) (hfit.tail hlen hcfg)
        (by rw [hext.bytes, List.append_assoc, List.singleton_append, hrest])
      refine ⟨u, ?_, hcap, hlog.trans (hext.log.trans hsv.log)⟩
      rw [List.cons_append, paced_cons, hrun, hw, andThen_next, hu]
    · exact absurd hends (not_endsFrame hp hv hrest)

/-- A packet's markers and covered bytes, fed from START with gaps that fit, and then any byte in the checksum's place: that byte meets
the packet, and no event came before it. -/
theorem runAll_paced_from_start (hp : p.wf = true) (hst : s.st = .start) (hb : Memory.wf s.buf = true)
    (hfit : ∀ (j : Nat) (gap : List Bool), 3 ≤ j → gaps[j]? = some gap → gap.count true ≤ s.cfg.tIB.val) (x : Byte) :
    ∃ u, runAll (paced gaps (sync0 :: sync1 :: (coveredBytes p ++ [x]))) s = .next (feedChecksum x u) ∧
      capturedPacket u = p ∧ u.log = s.log := by
  have hnil := received_start hst
  refine runAll_paced_concat (bs := sync0 :: sync1 :: coveredBytes p) hp (.of_st_ne (by simp [hst]) (by simp [hst]) hb) ?_ ?_ ?_
  · intro hrun
    rw [hst] at hrun
    cases hrun
  · intro j gap hj
    rw [hnil, List.length_nil, Nat.zero_add] at hj
    exact hfit j gap hj
  · rw [hnil, List.nil_append]

theorem execFrame_of_wf (hp : p.wf = true) (s : State) :
    execFrame p.dst p.src p.cmd p.data s = feedAll (frameOf p) s := if_pos hp

/-- Settles O46: with gaps the checksum byte meets the packet, which is emitted; FRAME feeds the same bytes without gaps. -/
theorem framedPacketRoundTrips : Obligations.FramedPacketRoundTrips := by
  refine ⟨fun p s gaps hp hst hb _ hfit => ?gaps, fun p s hp hst hb => ?frame⟩
  case gaps =>
    obtain ⟨u, hu, rfl, hlog⟩ := runAll_paced_from_start hp hst hb hfit (checksum p)
    rw [← frameOf_eq, feedChecksum, if_pos rfl] at hu
    exact ⟨_, hu, rfl, by simp [hlog], rfl, rfl⟩
  case frame =>
    obtain ⟨u, hu, hlog⟩ := feedAll_frameOf hp hst hb
    exact ⟨_, (execFrame_of_wf hp s).trans hu, rfl, by simp [hlog], rfl, rfl⟩

/-- Replacing a covered byte other than the datalen byte gives the covered bytes of another packet. -/
theorem exists_coveredBytes_eq_set (hp : p.wf = true) {i : Nat} (hi : i ≠ 3) (c : Byte) :
    ∃ q : Packet, q.wf = true ∧ coveredBytes q = (coveredBytes p).set i c := by
  match i with
  | 0 => exact ⟨{ p with dst := c }, hp, rfl⟩
  | 1 => exact ⟨{ p with src := c }, hp, rfl⟩
  | 2 => exact ⟨{ p with cmd := c }, hp, rfl⟩
  | 3 => exact absurd rfl hi
  | j + 4 =>
    exact ⟨{ p with data := p.data.set j c }, by simpa [Packet.wf] using hp, by simp [coveredBytes]⟩

/-- A frame with one byte changed, neither a marker nor the datalen byte, is some packet's but for its checksum byte, which is wrong
(R87). -/
theorem exists_frameOf_set_eq (hp : p.wf = true) {k : Nat} {c : Byte} (hk : 2 ≤ k) (hk5 : k ≠ 5) (hlt : k < 7 + p.data.length)
    (hne : (frameOf p)[k]? ≠ some c) :
    ∃ (q : Packet) (x : Byte), q.wf = true ∧ (frameOf p).set k c = sync0 :: sync1 :: (coveredBytes q ++ [x]) ∧ x ≠ checksum q := by
  obtain ⟨i, rfl⟩ : ∃ i, k = i + 2 := ⟨k - 2, by omega⟩
  have hcovered := coveredBytes_length p
  rw [frameOf_eq] at hne ⊢
  simp only [List.getElem?_cons_succ, List.set_cons_succ] at hne ⊢
  by_cases hi : i < (coveredBytes p).length
  · rw [List.getElem?_append_left hi] at hne
    obtain ⟨q, hq, hset⟩ := exists_coveredBytes_eq_set hp (i := i) (by omega) c
    refine ⟨q, checksum p, hq, by rw [List.set_append_left _ _ hi, hset], ?_⟩
    rw [checksum_eq_byteSum_coveredBytes p, checksum_eq_byteSum_coveredBytes q, hset]
    exact (ofNat_byteSum_set_ne hi hne).symm
  · obtain rfl : i = (coveredBytes p).length := by omega
    rw [List.getElem?_concat_length] at hne
    refine ⟨p, c, hp, by rw [List.set_append_right _ _ (Nat.le_refl _), Nat.sub_self, List.set_cons_zero], ?_⟩
    exact fun h => hne (congrArg some h.symm)

/-- Settles O45: the frame is some packet's with a wrong checksum byte, which raises the error; FEED_BUFFER is the case of no gaps. -/
theorem corruptedFrameRaisesError : Obligations.CorruptedFrameRaisesError := by
  intro s p k c hst hb hp hk hk5 hlt hne
  obtain ⟨q, x, hq, hframe, hx⟩ := exists_frameOf_set_eq hp hk hk5 hlt hne
  have hpaced (gaps : List (List Bool))
      (hfit : ∀ (j : Nat) (gap : List Bool), 3 ≤ j → gaps[j]? = some gap → gap.count true ≤ s.cfg.tIB.val) :
      ∃ t, runAll (paced gaps ((frameOf p).set k c)) s = .next t ∧ t.ev = .error .corruptPacket ∧
        t.log = s.log ++ [.error .corruptPacket] ∧ t.st = .start ∧ t.elapsed = 0 := by
    obtain ⟨u, hu, rfl, hlog⟩ := runAll_paced_from_start hq hst hb hfit x
    rw [← hframe, feedChecksum, if_neg hx] at hu
    exact ⟨_, hu, rfl, by simp [hlog], rfl, rfl⟩
  refine ⟨fun gaps _ hfit => hpaced gaps hfit, ?_⟩
  have h := hpaced [] nofun
  rwa [paced_nil_left, runAll_map_feed] at h

end Sys2Proof.Machine
end

section
/-! The causes of the events (R101, R141, R142), and START as the one place where a frame begins (R121). -/

namespace Sys2Proof.Machine

variable {s t : State} {b : Byte}

/-- FEED outputs an event in CHECKSUM only: the packet or the error, by the byte it feeds (R102 to R109). -/
theorem execFeed_event (h : execFeed b s = .next t) :
    (s.st ≠ .checksum ∧ t.ev = .none) ∨
      (s.st = .checksum ∧ b = checksum (capturedPacket s) ∧ t = commit (.packet (capturedPacket s)) (toStart s)) ∨
      (s.st = .checksum ∧ b ≠ checksum (capturedPacket s) ∧ t = raiseError .corruptPacket s) := by
  by_cases hck : s.st = .checksum
  · rw [execFeed_checksum b s hck] at h
    cases h
    obtain ⟨hb, ht⟩ | ⟨hb, ht⟩ := feedChecksum_cases b s
    · exact .inr (.inl ⟨hck, hb, ht⟩)
    · exact .inr (.inr ⟨hck, hb, ht⟩)
  · refine .inl ⟨hck, ?_⟩
    obtain ⟨-, rfl⟩ | ⟨-, rfl⟩ | ⟨-, rfl⟩ | ⟨-, rfl⟩ | ⟨-, rfl⟩ | ⟨-, rfl⟩ | ⟨-, -, rfl⟩ | ⟨hst, -⟩ | ⟨hst, -⟩ |
      ⟨-, -, rfl⟩ := execFeed_next h
    rotate_left 7
    · exact absurd hst hck
    · exact absurd hst hck
    all_goals rfl

/-- Settles O29: RESET and IDLE output no event, FEED the two of CHECKSUM, and TICK the timeout. -/
theorem eventsByCause : Obligations.EventsByCause := by
  intro w s t h
  obtain ⟨hw, rfl⟩ | ⟨b, hw, h⟩ | ⟨hw, h⟩ | ⟨hw, rfl⟩ := exec_decodeWord_next h <;> rw [hw]
  · simp
  · obtain ⟨hck, hev⟩ | ⟨hck, hb, rfl⟩ | ⟨hck, hb, rfl⟩ := execFeed_event h
    · simp [hev, hck]
    · simp [hck, hb, eq_comm (a := capturedPacket s)]
    · simp [hck, hb]
  · obtain ⟨hrun, h'⟩ | ⟨hrun, he, h'⟩ | ⟨hrun, he, h'⟩ := execTick_cases s <;> rw [h'] at h <;> cases h
    · simp [hrun]
    · simp [hrun, he]
    · simp [he]
  · simp

/-- An event ends the frame: the next byte is taken as the first of another (R109, R146). -/
theorem st_of_event {w : CycleWord} (h : exec (decodeWord w) s = .next t) (hev : t.ev ≠ .none) : t.st = .start := by
  obtain ⟨-, rfl⟩ | ⟨b, -, h⟩ | ⟨-, h⟩ | ⟨-, rfl⟩ := exec_decodeWord_next h
  · exact absurd rfl hev
  · obtain ⟨-, hnone⟩ | ⟨-, -, rfl⟩ | ⟨-, -, rfl⟩ := execFeed_event h
    · exact absurd hnone hev
    · rfl
    · rfl
  · obtain ⟨-, h'⟩ | ⟨-, -, h'⟩ | ⟨-, -, h'⟩ := execTick_cases s <;> rw [h'] at h <;> cases h
    · exact absurd rfl hev
    · rfl
    · exact absurd rfl hev
  · exact absurd rfl hev

/-- The one byte that each of LEADIN and ADDRESS is entered by (R102, R103); no other FEED leads there. -/
theorem execFeed_recognises (h : execFeed b s = .next t) :
    (t.st = .leadin ↔ b = sync0 ∧ s.st = .start) ∧ (t.st = .address ↔ b = sync1 ∧ s.st = .leadin) := by
  obtain ⟨hst, rfl⟩ | ⟨hst, rfl⟩ | ⟨hst, rfl⟩ | ⟨hst, rfl⟩ | ⟨hst, rfl⟩ | ⟨hst, rfl⟩ | ⟨hst, -, rfl⟩ | ⟨hst, -, rfl⟩ |
    ⟨hst, -, rfl⟩ | ⟨hst, -, rfl⟩ := execFeed_next h
  · by_cases hb : b = sync0 <;> simp [hst, hb]
  · by_cases hb : b = sync1 <;> simp [hst, hb]
  · simp [hst]
  · simp [hst]
  · simp [hst]
  · obtain hnext | hnext := ite_checksum_data (b = 0) <;> simp only [silent_st, hnext] <;> simp [hst]
  · obtain hnext | hnext := ite_checksum_data (s.idx.toNat + 1 = s.len.toNat) <;> simp only [silent_st, hnext] <;> simp [hst]
  · simp [hst]
  · simp [hst]
  · simp [hst]

/-- A TICK leads to no position but START, and leaves the positions with the timer stopped. -/
theorem execTick_st_iff {p : Pos} (hp : p ≠ .start) (hstop : running p = false) (h : execTick s = .next t) :
    t.st = p ↔ s.st = p := by
  obtain ⟨-, h'⟩ | ⟨hrun, -, h'⟩ | ⟨-, -, h'⟩ := execTick_cases s <;> rw [h'] at h <;> cases h
  · rfl
  · refine ⟨fun hst => absurd hst.symm hp, fun hst => ?_⟩
    rw [hst, hstop] at hrun
    cases hrun
  · rfl

/-- Settles O31: an event and RESET lead to START; LEADIN and ADDRESS are entered by one byte each, and no TICK or IDLE leaves them. -/
theorem frameRecognisedOnlyFromStart : Obligations.FrameRecognisedOnlyFromStart := by
  intro w s t h
  refine ⟨st_of_event h, ?_⟩
  obtain ⟨hw, rfl⟩ | ⟨b, hw, h⟩ | ⟨hw, h⟩ | ⟨hw, rfl⟩ := exec_decodeWord_next h <;> rw [hw]
  · simp
  · obtain ⟨hleadin, haddress⟩ := execFeed_recognises h
    simp [hleadin, haddress, sync0, sync1]
  · simp [execTick_st_iff (p := .leadin) nofun rfl h, execTick_st_iff (p := .address) nofun rfl h]
  · simp

end Sys2Proof.Machine
end

section
/-! A running frame ends (R122): its bytes are bounded, and so is the number of TICKs it waits for the next one. -/

namespace Sys2Proof.Machine

variable {s t : State}

/-- The frame in progress is never longer than two markers, four bytes and 255 data bytes: its checksum byte ends it. -/
theorem received_length_le (s : State) : (received s).length ≤ 261 := by
  have hidx := s.idx.isLt
  cases hst : s.st <;> simp only [received, hst, List.length_append, List.length_cons, List.length_nil,
    Memory.readPrefix_length] <;> omega

theorem received_eq_nil_iff : received s = [] ↔ s.st = .start := by
  cases hst : s.st <;> simp [received, hst]

/-- A cycle other than RESET ends the frame or adds the byte it feeds, if any, to the frame in progress. -/
theorem exec_lineCycle (hs : CountInv s) {op : Instr} (hop : isLineCycle op = true) :
    ∃ t, exec op s = .next t ∧ CountInv t ∧
      (t.st = .start ∨ (received t).length = (received s).length + [op].countP isFeed) := by
  have hfeed (b : Byte) : ∃ t, execFeed b s = .next t ∧ CountInv t ∧
      (t.st = .start ∨ (received t).length = (received s).length + 1) := by
    obtain ⟨t, ht⟩ := execFeed_completes b s
    refine ⟨t, ht, hs.feed ht, ?_⟩
    obtain hext | ⟨-, hnil⟩ := execFeed_extends hs ht
    · exact .inr (by rw [hext.bytes, List.length_append, List.length_singleton])
    · exact .inl (received_eq_nil_iff.mp hnil)
  have hwaits {t : State} (hst : Waits s t) : CountInv t ∧ (t.st = .start ∨ (received t).length = (received s).length) :=
    ⟨hst.countInv hs, .inr (by rw [hst.received])⟩
  cases op
  case feed b => exact hfeed b
  case feedtick b => exact hfeed b
  case idle => exact ⟨_, rfl, hwaits (.of_silent s s.elapsed)⟩
  case tick =>
    obtain ⟨-, h⟩ | ⟨-, -, h⟩ | ⟨-, -, h⟩ := execTick_cases s
    · exact ⟨_, h, hwaits (.of_silent s s.elapsed)⟩
    · exact ⟨_, h, hs.tick h, .inl rfl⟩
    · exact ⟨_, h, hwaits (.of_silent s _)⟩
  all_goals cases hop

/-- With bytes enough for the longest frame the run comes to START, after as many bytes at most. -/
theorem exists_take_runAll_start {ops : List Instr} (hs : CountInv s) (hops : ∀ op ∈ ops, isLineCycle op = true)
    (hcount : 262 ≤ (received s).length + ops.countP isFeed) :
    ∃ k t, (received s).length + (ops.take k).countP isFeed ≤ 262 ∧ runAll (ops.take k) s = .next t ∧ t.st = .start := by
  have hlen := received_length_le s
  induction ops generalizing s with
  | nil =>
    rw [List.countP_nil] at hcount
    omega
  | cons op ops ih =>
    rw [List.forall_mem_cons] at hops
    obtain ⟨hop, hops⟩ := hops
    obtain ⟨t, ht, htinv, hend | hgrow⟩ := exec_lineCycle hs hop
    · refine ⟨1, t, ?_, ?_, hend⟩
      · have hone := List.countP_le_length (p := isFeed) (l := [op])
        rw [List.length_singleton] at hone
        rw [List.take_succ_cons, List.take_zero]
        omega
      · rw [List.take_succ_cons, List.take_zero, runAll, ht]
        rfl
    · rw [← List.singleton_append, List.countP_append] at hcount
      obtain ⟨k, u, hk, hu, hend⟩ := ih htinv hops (by omega) (received_length_le t)
      refine ⟨k + 1, u, ?_, ?_, hend⟩
      · rw [List.take_succ_cons, ← List.singleton_append, List.countP_append]
        omega
      · rw [List.take_succ_cons, runAll, ht, andThen_next, hu]

theorem countP_isFeed_map_feed (bs : List Byte) : (bs.map Instr.feed).countP isFeed = bs.length := by
  simp [isFeed]

/-- In a list with more than `n` ticks, one tick has exactly `n` before it. -/
theorem exists_take_eq_append_tick {gap : List Bool} {n : Nat} (h : n < gap.count true) :
    ∃ k g, gap.take k = g ++ [true] ∧ g.count true = n := by
  induction gap generalizing n with
  | nil => cases h
  | cons isTick gap ih =>
    cases isTick
    case false =>
      obtain ⟨k, g, htake, hcount⟩ := ih (n := n) (by simpa using h)
      exact ⟨k + 1, false :: g, by rw [List.take_succ_cons, htake, List.cons_append], by simpa using hcount⟩
    case true =>
      cases n with
      | zero => exact ⟨1, [], rfl, rfl⟩
      | succ n =>
        obtain ⟨k, g, htake, hcount⟩ := ih (n := n) (by simpa using h)
        exact ⟨k + 1, true :: g, by rw [List.take_succ_cons, htake, List.cons_append], by simpa using hcount⟩

theorem runAll_pauses_replicate_true (n : Nat) (s : State) :
    runAll (pauses (List.replicate n true)) s = execTickN n s := by
  unfold execTickN
  induction n generalizing s with
  | zero => rfl
  | succ n ih =>
    show andThen (execTick s) _ = andThen (execTick s) _
    congr 1
    funext u
    exact ih u

/-- Settles O52: a frame has at most 262 bytes, of which a running one has received three or more; without a byte the tick after those
that bring `elapsed` to `T_IB` ends it. -/
theorem runningFrameEnds : Obligations.RunningFrameEnds := by
  refine ⟨fun s hs hrun => ?running, fun s b hst hb => ?leadin, fun s t w hst h hne => ?address⟩
  case running =>
    obtain ⟨htimer, hcount⟩ := frameInv_iff.mp hs
    have hlen := running_iff_received_length.mp hrun
    have hle := htimer.le_tIB
    have hfeeds (ops : List Instr) (hops : ∀ op ∈ ops, isLineCycle op = true) (hn : 259 ≤ ops.countP isFeed) :
        ∃ k t, (ops.take k).countP isFeed ≤ 259 ∧ runAll (ops.take k) s = .next t ∧ t.st = .start := by
      obtain ⟨k, t, hk, ht, hend⟩ := exists_take_runAll_start hcount hops (by omega)
      exact ⟨k, t, by omega, ht, hend⟩
    have hticks {g : List Bool} (hg : g.count true = s.cfg.tIB.val - s.elapsed) :
        ∃ t, runAll (pauses (g ++ [true])) s = .next t ∧ t.st = .start := by
      obtain ⟨u, -, -, -, ht⟩ := runAll_pauses_timeout hrun (gap := g) (by omega)
      exact ⟨_, ht, rfl⟩
    refine ⟨hfeeds, fun gap hgap => ?gap, fun bs hbs => ?buffer, ?tickN⟩
    case gap =>
      obtain ⟨k, g, htake, hg⟩ := exists_take_eq_append_tick (gap := gap) (n := s.cfg.tIB.val - s.elapsed) (by omega)
      obtain ⟨t, ht, hend⟩ := hticks hg
      refine ⟨k, t, ?_, htake ▸ ht, hend⟩
      rw [htake, List.count_append, hg, List.count_singleton_self]
      omega
    case buffer =>
      obtain ⟨k, t, -, ht, hend⟩ := hfeeds (bs.map .feed) (by simp [isLineCycle])
        (Nat.le_of_eq (by rw [countP_isFeed_map_feed, hbs]))
      rw [← List.map_take, runAll_map_feed, List.take_eq_take_min, hbs] at ht
      exact ⟨min k 259, t, Nat.min_le_right k 259, ht, hend⟩
    case tickN =>
      obtain ⟨t, ht, hend⟩ := hticks (List.count_replicate_self ..)
      rw [← List.replicate_succ', runAll_pauses_replicate_true] at ht
      exact ⟨_, t, by omega, ht, hend⟩
  case leadin => exact ⟨_, execFeed_leadin b s hst, if_neg hb⟩
  case address =>
    obtain ⟨-, -, -, haddress⟩ := frameRecognisedOnlyFromStart w s t h
    obtain hw | hw | hw | hw := decodeWord_cases w
    · exact .inl hw
    · exact .inr hw
    · exact absurd (haddress.mpr (.inr ⟨.inl hw, hst⟩)) hne
    · exact absurd (haddress.mpr (.inr ⟨.inr hw, hst⟩)) hne

end Sys2Proof.Machine
end

section
/-! The step, and what each of the four operations does, by the state it finds (R100 to R115). -/

namespace Sys2Proof.Machine

/-- A number that decodes has eleven bits, and decodes as the word they are (R61, log 14). -/
theorem decodeTableWord_eq_some {n w : Nat} {i : Instr} (h : decodeTableWord n w = some i) : decodeWord (BitVec.ofNat 11 w) = i := by
  unfold decodeTableWord decode at h
  by_cases hw : w < 2048
  · simpa [hw] using h
  · simp [hw] at h

/-- An offered word is taken and run (R100). -/
theorem step_of_word {s : State} {w : CycleWord} {rest : List Stimulus} (h : s.input = .word w :: rest) :
    step s = exec (decodeWord w) { s with input := rest } := by
  simp [step, fetch, h]

/-- Settles O6: the priority is the decoder's, and the step runs the word at the head of the input. -/
theorem stepRunsDecodedWord : Obligations.StepRunsDecodedWord := by
  refine ⟨fun w => rfl, fun s w rest h => step_of_word h, fun s n w i h => ?_⟩
  rw [step_of_word (s := s.withFetchWord n w) rfl, decodeTableWord_eq_some h]
  rfl

/-- Settles O11: RESET ends the step of the cleared state with the event `NONE`. -/
theorem resetClearsEveryElement : Obligations.ResetClearsEveryElement := by
  intro s
  show Host.Outcome.next (silent (clearState s)) = _
  rw [silent_eq]
  rfl

/-- Settles O13: the update of FEED in this position (R102), ended with the event `NONE`. -/
theorem feedInStartSeeksMarker : Obligations.FeedInStartSeeksMarker := by
  intro b s h
  refine (execFeed_start b s h).trans ?_
  rw [feedStart, silent_eq, h]
  rfl

/-- Settles O14: the update of FEED in this position (R103), ended with the event `NONE`. -/
theorem feedInLeadinChecksLeadin : Obligations.FeedInLeadinChecksLeadin := by
  intro b s h
  refine (execFeed_leadin b s h).trans ?_
  rw [feedLeadin, silent_eq]
  rfl

/-- Settles O15: the update of FEED in this position (R104), ended with the event `NONE`. -/
theorem feedInAddressCapturesDestination : Obligations.FeedInAddressCapturesDestination := by
  intro b s h
  exact (execFeed_address b s h).trans (by rw [feedAddress, silent_eq])

/-- Settles O16: the update of FEED in this position (R105), ended with the event `NONE`. -/
theorem feedInSourceCapturesSource : Obligations.FeedInSourceCapturesSource := by
  intro b s h
  exact (execFeed_source b s h).trans (by rw [feedSource, silent_eq])

/-- Settles O17: the update of FEED in this position (R106), ended with the event `NONE`. -/
theorem feedInCommandCapturesCommand : Obligations.FeedInCommandCapturesCommand := by
  intro b s h
  exact (execFeed_command b s h).trans (by rw [feedCommand, silent_eq])

/-- Settles O18: the update of FEED in this position (R107), ended with the event `NONE`. -/
theorem feedInDatalenCapturesLength : Obligations.FeedInDatalenCapturesLength := by
  intro b s h
  exact (execFeed_datalen b s h).trans (by rw [feedDatalen, silent_eq])

/-- Settles O19: the byte is written at `idx` by the laws of `Memory.write`, and the count does not wrap. -/
theorem feedInDataStoresByte : Obligations.FeedInDataStoresByte := by
  intro b s h hi hb
  have hsucc := toNat_idx_succ hi
  refine ⟨Memory.write s.buf s.idx.toNat b, (execFeed_data b s h hi).trans (by rw [silent_eq]), Memory.read_write_same hb _ b,
    fun i hne => Memory.read_write_other _ b hne, Memory.wf_write hb hi b, hsucc, fun hlt => ?_⟩
  rw [hsucc]
  exact hlt

/-- Settles O20: the packet of the statement is the captured one, whose length is the value of `len`. -/
theorem feedInChecksumEndsFrame : Obligations.FeedInChecksumEndsFrame := by
  intro b s p h hp
  have hcap : p = capturedPacket s := hp
  subst hcap
  refine ⟨fun hb => ?packet, fun hb => ?corrupt⟩
  case packet =>
    have hlen : BitVec.ofNat 8 (capturedPacket s).data.length = s.len := by simp [capturedPacket]
    refine (execFeed_checksum b s h).trans ?_
    rw [feedChecksum, if_pos hb, emit_eq, hlen]
    rfl
  case corrupt =>
    refine (execFeed_checksum b s h).trans ?_
    rw [feedChecksum, if_neg hb, raiseError_eq]
    rfl

/-- Settles O23: the update of TICK with the timer stopped (R112), ended with the event `NONE`. -/
theorem tickWhileStoppedChangesNothing : Obligations.TickWhileStoppedChangesNothing := by
  intro s h
  have hstop : running s.st = false := by obtain h | h | h := h <;> rw [h] <;> rfl
  exact (execTick_stopped hstop).trans (by rw [silent_eq])

/-- Settles O24: in the five states the timer runs, and `elapsed` alone decides. -/
theorem tickWhileRunningCountsOrTimesOut : Obligations.TickWhileRunningCountsOrTimesOut := by
  obtain ⟨hvalues, -⟩ := timerRunsFromSourceToChecksum
  intro s h
  have hrun := (hvalues s.st).mpr h
  exact ⟨fun he => (execTick_timeout hrun he).trans (by rw [raiseError_eq]; rfl),
    fun he => (execTick_counts hrun he).trans (by rw [silent_eq])⟩

/-- Settles O25: the update of IDLE (R114), ended with the event `NONE`. -/
theorem idleChangesNothing : Obligations.IdleChangesNothing := by
  intro s
  show Host.Outcome.next (silent s) = _
  rw [silent_eq]

end Sys2Proof.Machine
end

section
/-! Every well-formed instruction completes and keeps the invariant of R34, and so does every step (R148, 10_state.md section 7). -/

namespace Sys2Proof.Machine

variable {s t : State}

theorem FrameInv.feed {b : Byte} (hs : FrameInv s) (h : execFeed b s = .next t) : FrameInv t := by
  obtain ⟨htimer, hcount⟩ := frameInv_iff.mp hs
  exact frameInv_iff.mpr ⟨htimer.feed h, hcount.feed h⟩

theorem FrameInv.tick (hs : FrameInv s) (h : execTick s = .next t) : FrameInv t := by
  obtain ⟨htimer, hcount⟩ := frameInv_iff.mp hs
  exact frameInv_iff.mpr ⟨htimer.tick h, hcount.tick h⟩

/-- IDLE writes the event and the pins only, which the invariant does not name (R114). -/
theorem FrameInv.idle (hs : FrameInv s) (h : execIdle s = .next t) : FrameInv t := by
  cases h
  exact hs

/-- RESET makes the invariant hold, whatever the state before (R115). -/
theorem FrameInv.of_reset (h : execReset s = .next t) : FrameInv t := by
  cases h
  exact frameInv_iff.mpr ⟨TimerInv.of_elapsed_zero rfl, CountInv.of_st_ne nofun nofun reset_buf_wf⟩

theorem FrameInv.feedAll {bs : List Byte} (hs : FrameInv s) (h : feedAll bs s = .next t) : FrameInv t :=
  feedAll_keeps (fun _ _ _ hu hinv => FrameInv.feed hinv hu) bs hs h

/-- Every instruction that completes keeps the invariant: the function ports write none of its fields, the others run the four
operations. -/
theorem FrameInv.exec {i : Instr} (hs : FrameInv s) (h : exec i s = .next t) : FrameInv t := by
  by_cases hport : usesPort i = true
  · obtain ⟨v, hv⟩ := exec_next_of_usesPort hport
    rw [hv s t h]
    exact hs
  cases i
  case reset => exact FrameInv.of_reset h
  case feed b => exact FrameInv.feed hs h
  case feedtick b => exact FrameInv.feed hs h
  case tick => exact FrameInv.tick hs h
  case idle => exact FrameInv.idle hs h
  case feedBuffer bs => exact FrameInv.feedAll hs h
  case frame dst src cmd data => exact FrameInv.feedAll hs (execFrame_next h)
  case tickN n => exact repeatStep_keeps (fun _ _ hu hinv => FrameInv.tick hinv hu) n hs h
  case idleN n => exact repeatStep_keeps (fun _ _ hu hinv => FrameInv.idle hinv hu) n hs h
  all_goals exact absurd rfl hport

theorem execTick_completes (s : State) : ∃ t, execTick s = .next t := by
  obtain ⟨-, h⟩ | ⟨-, -, h⟩ | ⟨-, -, h⟩ := execTick_cases s <;> exact ⟨_, h⟩

theorem feedAll_completes (bs : List Byte) (s : State) : ∃ t, feedAll bs s = .next t := by
  induction bs generalizing s with
  | nil => exact ⟨s, rfl⟩
  | cons b bs ih =>
    obtain ⟨u, hu⟩ := execFeed_completes b s
    obtain ⟨t, ht⟩ := ih u
    exact ⟨t, andThen_eq_next.mpr ⟨u, hu, ht⟩⟩

/-- What completes in every state completes any number of times in a row. -/
theorem repeatStep_completes {f : State → Host.Outcome State Fault Refusal} (hf : ∀ s, ∃ t, f s = .next t) (n : Nat) (s : State) :
    ∃ t, repeatStep f n s = .next t := by
  induction n generalizing s with
  | zero => exact ⟨s, rfl⟩
  | succ n ih =>
    obtain ⟨u, hu⟩ := hf s
    obtain ⟨t, ht⟩ := ih u
    exact ⟨t, andThen_eq_next.mpr ⟨u, hu, ht⟩⟩

theorem execChecksum_of_wf {p : Packet} (h : p.wf = true) (s : State) :
    execChecksum p s = .next { s with fnOut := .byte (checksum p) } := if_pos h

/-- Every well-formed instruction answers a next state in every state (R148). -/
theorem exec_completes {i : Instr} (hi : i.wf = true) (s : State) : ∃ t, exec i s = .next t := by
  cases i with
  | reset => exact ⟨_, rfl⟩
  | idle => exact ⟨_, rfl⟩
  | feed b => exact execFeed_completes b s
  | feedtick b => exact execFeed_completes b s
  | tick => exact execTick_completes s
  | checksum p => exact ⟨_, execChecksum_of_wf hi s⟩
  | encode p => exact ⟨_, execEncode_of_wf hi s⟩
  | isResponse p => exact ⟨_, execIsResponse_of_wf hi s⟩
  | responseRequired p => exact ⟨_, execResponseRequired_of_wf hi s⟩
  | feedBuffer bs => exact feedAll_completes bs s
  | tickN n => exact repeatStep_completes execTick_completes n s
  | idleN n => exact repeatStep_completes (fun u => ⟨silent u, rfl⟩) n s
  | frame dst src cmd data =>
    obtain ⟨t, ht⟩ := feedAll_completes (frameOf { dst := dst, src := src, cmd := cmd, data := data }) s
    exact ⟨t, (execFrame_of_wf hi s).trans ht⟩

/-- No cycle word decodes to an instruction with an operand to check (R62, R63). -/
theorem decodeWord_wf (w : CycleWord) : (decodeWord w).wf = true := by
  obtain hw | ⟨b, hw⟩ | hw | hw := decodeWord_cases w <;> rw [hw] <;> rfl

theorem usePort_completes {u : PortUse} (hu : u.wf = true) (s : State) : ∃ t, usePort u s = .next t := by
  cases u with
  | checksum p => exact ⟨_, execChecksum_of_wf hu s⟩
  | encode p => exact ⟨_, execEncode_of_wf hu s⟩
  | isResponse p => exact ⟨_, execIsResponse_of_wf hu s⟩
  | responseRequired p => exact ⟨_, execResponseRequired_of_wf hu s⟩
  | readBuffer rdIdx => exact ⟨_, rfl⟩

/-- Where nothing is known to be offered, a free cycle word is run (log 2). -/
theorem step_of_input_nil (h : s.input = []) :
    step s = exec (decodeWord (Config.offeredWord s.envTime)) { s with envTime := s.envTime + 1 } := by
  simp [step, fetch, h]

/-- An offered use of a port is taken and answered (R67, R68). -/
theorem step_of_port {u : PortUse} {rest : List Stimulus} (h : s.input = .port u :: rest) :
    step s = usePort u { s with input := rest } := by
  simp [step, fetch, h]

/-- A step completes unless the outside world offers a port an operand that is no packet (R148, log 10). -/
theorem step_completes (hport : ∀ u rest, s.input = .port u :: rest → u.wf = true) : ∃ t, step s = .next t := by
  match hin : s.input with
  | [] =>
    rw [step_of_input_nil hin]
    exact exec_completes (decodeWord_wf _) _
  | .word w :: rest =>
    rw [step_of_word hin]
    exact exec_completes (decodeWord_wf w) _
  | .port u :: rest =>
    rw [step_of_port hin]
    exact usePort_completes (hport u rest hin) _

/-- Settles O56: what a cycle word decodes to is well-formed, and every well-formed instruction completes and keeps the invariant. -/
theorem everyInstructionCompletes : Obligations.EveryInstructionCompletes := by
  refine ⟨fun w s => exec_completes (decodeWord_wf w) s, fun i s hi => ?_, fun s => step_completes⟩
  obtain ⟨t, ht⟩ := exec_completes hi s
  exact ⟨t, ht, fun hs => FrameInv.exec hs ht⟩

end Sys2Proof.Machine
end

section
/-! The errors (R140 to R147): what the step that raises one changes, and the inputs that raise none. -/

namespace Sys2Proof.Machine

variable {s t : State}

/-- `raiseError` is the one way a cycle word comes to an error event (R141, R142, R146). -/
theorem eq_raiseError_of_ev {w : CycleWord} {e : ErrorKind} (h : exec (decodeWord w) s = .next t) (hev : t.ev = .error e) :
    t = raiseError e s := by
  obtain ⟨-, rfl⟩ | ⟨b, -, h⟩ | ⟨-, h⟩ | ⟨-, rfl⟩ := exec_decodeWord_next h
  · cases hev
  · obtain ⟨-, hnone⟩ | ⟨-, -, rfl⟩ | ⟨-, -, rfl⟩ := execFeed_event h
    · cases hnone.symm.trans hev
    · cases hev
    · cases hev
      rfl
  · obtain ⟨-, h'⟩ | ⟨-, -, h'⟩ | ⟨-, -, h'⟩ := execTick_cases s <;> rw [h'] at h <;> cases h <;> cases hev
    rfl
  · cases hev

/-- Settles O28: a step that ends with an error is `raiseError`, whose effect R146 lists. -/
theorem errorTouchesOnlyPositionAndTimer : Obligations.ErrorTouchesOnlyPositionAndTimer :=
  fun _ s _ e h hev => (eq_raiseError_of_ev h hev).trans (raiseError_eq s e)

/-- The one error FEED raises is CorruptPacket (R141, R142). -/
theorem execFeed_ev_ne_packetTimeout {b : Byte} (h : execFeed b s = .next t) : t.ev ≠ .error .packetTimeout := by
  obtain ⟨-, hev⟩ | ⟨-, -, rfl⟩ | ⟨-, -, rfl⟩ := execFeed_event h
  · simp [hev]
  · simp
  · simp

/-- Settles O21: FEEDTICK runs as FEED by definition, and FEED neither times out nor advances the timer. -/
theorem feedtickRunsAsFeed : Obligations.FeedtickRunsAsFeed := by
  refine ⟨fun b s => rfl, fun b s => ?_⟩
  obtain ⟨t, ht⟩ := execFeed_completes b s
  exact ⟨t, ht, execFeed_ev_ne_packetTimeout ht, execFeed_elapsed_le ht⟩

/-- Settles O30: each of the four inputs ends its step with the event `NONE`; in START and LEADIN every byte does, dropped or not. -/
theorem droppedInputsRaiseNoError : Obligations.DroppedInputsRaiseNoError := by
  refine ⟨fun b s hst _ => ?feedStart, fun b s hst _ => ?feedLeadin, fun s => ?reset, fun s hstop => ?tick⟩
  case feedStart => exact ⟨_, execFeed_start b s hst, rfl, silent_log _⟩
  case feedLeadin => exact ⟨_, execFeed_leadin b s hst, rfl, silent_log _⟩
  case reset => exact ⟨_, rfl, rfl, silent_log _⟩
  case tick => exact ⟨_, execTick_stopped hstop, rfl, silent_log _⟩

end Sys2Proof.Machine
end

section
/-! The hold window of an emitted packet (R164): entry `i` of the buffer is written only once the next frame has `6 + i` bytes. -/

namespace Sys2Proof.Machine

variable {s t : State} {b : Byte} {i : Nat}

theorem received_length_of_data (h : s.st = .checksum ∨ s.st = .data) : (received s).length = 6 + s.idx.toNat := by
  rw [received_data h, List.length_append, Memory.readPrefix_length]
  rfl

theorem received_length_le_of_start (h : s.st = .start) (n : Nat) : (received s).length ≤ n := by
  rw [received_start h]
  exact Nat.zero_le n

/-- A FEED adds at most one byte to the frame in progress. This holds in every state: a free value of `idx`, which follows 255, is at
most 255 itself (log 8). -/
theorem execFeed_received_length_le (h : execFeed b s = .next t) : (received t).length ≤ (received s).length + 1 := by
  obtain ⟨hst, rfl⟩ | ⟨hst, rfl⟩ | ⟨hst, rfl⟩ | ⟨hst, rfl⟩ | ⟨hst, rfl⟩ | ⟨hst, rfl⟩ | ⟨hst, hi, rfl⟩ | ⟨-, -, rfl⟩ |
    ⟨-, -, rfl⟩ | ⟨hst, hi, rfl⟩ := execFeed_next h
  · by_cases hb : b = sync0 <;> simp [received, hst, hb]
  · by_cases hb : b = sync1 <;> simp [received, hst, hb]
  · simp [received, hst]
  · simp [received, hst]
  · simp [received, hst]
  · rw [received_length_of_data (ite_checksum_data _)]
    simp [received, hst]
  · rw [received_length_of_data (ite_checksum_data _), received_length_of_data (.inr hst)]
    simp only [silent_idx, toNat_idx_succ hi]
    omega
  · exact received_length_le_of_start rfl _
  · exact received_length_le_of_start rfl _
  · have hfree := (Config.freeIdx s.idxDraws).isLt
    rw [received_length_of_data (.inr hst)]
    refine Nat.le_trans (Nat.le_of_eq (received_length_of_data (.inr (by exact hst)))) ?_
    simp only [silent_idx, hi]
    omega

/-- The FEED that writes entry `i` finds `6 + i` bytes of the frame received: two markers, the header, `len` and data bytes `0..i-1`. -/
theorem execFeed_keeps_entry (h : execFeed b s = .next t) (hlt : (received s).length < 6 + i) :
    Memory.read t.buf i = Memory.read s.buf i := by
  refine Decidable.byContradiction fun hne => ?_
  obtain ⟨hst, rfl, -⟩ := execFeed_buf_read h hne
  rw [received_length_of_data (.inr hst)] at hlt
  exact Nat.lt_irrefl _ hlt

/-- A TICK times the frame out or leaves its bytes. -/
theorem execTick_received_length_le (h : execTick s = .next t) : (received t).length ≤ (received s).length := by
  obtain ⟨-, h'⟩ | ⟨-, -, h'⟩ | ⟨-, -, h'⟩ := execTick_cases s <;> rw [h'] at h <;> cases h
  · exact Nat.le_of_eq (congrArg List.length (Waits.of_silent s s.elapsed).received)
  · exact received_length_le_of_start rfl _
  · exact Nat.le_of_eq (congrArg List.length (Waits.of_silent s _).received)

/-- A cycle other than RESET that leaves the frame in progress within `6 + i` bytes keeps entry `i`. -/
theorem exec_lineCycle_keeps_entry {op : Instr} (hop : isLineCycle op = true)
    (hwin : (received s).length + [op].countP isFeed ≤ 6 + i) :
    ∃ t, exec op s = .next t ∧ (received t).length ≤ (received s).length + [op].countP isFeed ∧
      Memory.read t.buf i = Memory.read s.buf i := by
  have hfeed (b : Byte) (hlt : (received s).length + 1 ≤ 6 + i) : ∃ t, execFeed b s = .next t ∧
      (received t).length ≤ (received s).length + 1 ∧ Memory.read t.buf i = Memory.read s.buf i := by
    obtain ⟨t, ht⟩ := execFeed_completes b s
    exact ⟨t, ht, execFeed_received_length_le ht, execFeed_keeps_entry ht hlt⟩
  cases op
  case feed b => exact hfeed b hwin
  case feedtick b => exact hfeed b hwin
  case idle => exact ⟨silent s, rfl, Nat.le_refl _, rfl⟩
  case tick =>
    obtain ⟨t, ht⟩ := execTick_completes s
    obtain ⟨-, -, -, -, -, hbuf⟩ := execTick_frame ht
    exact ⟨t, ht, execTick_received_length_le ht, by rw [hbuf]⟩
  all_goals cases hop

/-- A run keeps entry `i` while its bytes, with those of the frame in progress, are at most `6 + i`. -/
theorem runAll_keeps_entry {ops : List Instr} (hops : ∀ op ∈ ops, isLineCycle op = true)
    (hwin : (received s).length + ops.countP isFeed ≤ 6 + i) :
    ∃ u, runAll ops s = .next u ∧ Memory.read u.buf i = Memory.read s.buf i := by
  induction ops generalizing s with
  | nil => exact ⟨s, rfl, rfl⟩
  | cons op ops ih =>
    obtain ⟨hop, hops⟩ := List.forall_mem_cons.mp hops
    rw [← List.singleton_append, List.countP_append] at hwin
    obtain ⟨t, ht, hlen, hst⟩ := exec_lineCycle_keeps_entry hop (s := s) (i := i) (by omega)
    obtain ⟨u, hu, htu⟩ := ih hops (s := t) (by omega)
    exact ⟨u, by rw [runAll, ht, andThen_next, hu], htu.trans hst⟩

/-- The FEED that emits a packet leaves the codec in START, with the packet's data in the buffer (R109). -/
theorem execFeed_emits_data {p : Packet} {d : Byte} (h : execFeed b s = .next t) (hev : t.ev = .packet p)
    (hd : p.data[i]? = some d) : t.st = .start ∧ Memory.read t.buf i = d := by
  obtain ⟨-, hnone⟩ | ⟨-, -, rfl⟩ | ⟨-, -, rfl⟩ := execFeed_event h
  · cases hnone.symm.trans hev
  · cases hev
    obtain ⟨hi, -⟩ := List.getElem?_eq_some_iff.mp hd
    rw [capturedPacket, Memory.readPrefix_getElem? _ (by simpa [capturedPacket] using hi)] at hd
    exact ⟨rfl, Option.some.inj hd⟩
  · cases hev

/-- Settles O53: the emission leaves the frame in progress empty and `d` in entry `i`, which the run then keeps. -/
theorem holdWindowOfEmittedPacket : Obligations.HoldWindowOfEmittedPacket := by
  intro b s t p i d ops h hev hd hops hcount
  obtain ⟨hst, hread⟩ := execFeed_emits_data h hev hd
  obtain ⟨u, hu, hkeep⟩ := runAll_keeps_entry (s := t) (i := i) hops (by rwa [received_start hst, List.length_nil, Nat.zero_add])
  exact ⟨u, hu, hkeep.trans hread⟩

end Sys2Proof.Machine
end

section
/-! RESET held for several cycles (R161). -/

namespace Sys2Proof.Machine

/-- RESET leaves nothing that another RESET would change. -/
theorem exec_reset_again {s t : State} (h : exec .reset s = .next t) : exec .reset t = .next t := by
  rw [resetClearsEveryElement s] at h
  cases h
  exact resetClearsEveryElement _

/-- What leaves a state as it is does so any number of times. -/
theorem runAll_replicate_of_fixed {op : Instr} {t : State} (h : exec op t = .next t) (n : Nat) :
    runAll (List.replicate n op) t = .next t := by
  induction n with
  | zero => rfl
  | succ n ih => rw [List.replicate_succ, runAll, h, andThen_next, ih]

/-- Settles O12: the first RESET gives the reset state, which the others keep. -/
theorem heldResetKeepsResetState : Obligations.HeldResetKeepsResetState := by
  refine ⟨fun w h => decodeWord_reset h, fun n s => ?_⟩
  have hreset : exec .reset s = .next (silent (clearState s)) := rfl
  have hheld : runAll (List.replicate (n + 1) .reset) s = .next (silent (clearState s)) := by
    rw [List.replicate_succ, runAll, hreset, andThen_next, runAll_replicate_of_fixed (exec_reset_again hreset)]
  refine ⟨_, hreset, hheld, rfl, silent_log _, rfl, rfl, fun i => ?_⟩
  rw [runAll_append, hheld, andThen_next]
  exact andThen_next_right

end Sys2Proof.Machine
end

section
/-! The assembler's words (R69): each is its control bits before its byte, and decodes to the operation of its expansion (R70). -/

namespace Sys2Proof.Machine

/-- Adding a byte to a word whose low eight bits are empty puts the byte below the word's control bits (R61, R69). -/
theorem append_zero_add_setWidth (c : BitVec 3) (b : Byte) : (c ++ 0#8) + b.setWidth (3 + 8) = c ++ b := by
  have hb : b.setWidth (3 + 8) = 0#3 ++ b := BitVec.setWidth_eq_append (by decide)
  have hdisjoint : (c ++ 0#8) &&& (0#3 ++ b) = 0 := by
    rw [BitVec.and_append, BitVec.and_zero, BitVec.zero_and]
    exact BitVec.zero_append_zero
  rw [hb, BitVec.add_eq_or_of_and_eq_zero _ _ hdisjoint, BitVec.or_append, BitVec.or_zero, BitVec.zero_or]

/-- A byte below control bits that request FEED is its operand, whatever the tick bit is (R62, R63). -/
theorem decodeWord_append {c : BitVec 3} (hrst : c.getLsbD 2 = false) (hvalid : c.getLsbD 0 = true) (b : Byte) :
    decodeWord (c ++ b) = .feed b := by
  have h10 : (c ++ b).getLsbD 10 = false := by rw [BitVec.getLsbD_append]; exact hrst
  have h8 : (c ++ b).getLsbD 8 = true := by rw [BitVec.getLsbD_append]; exact hvalid
  exact (decodeWord_feed h10 h8).trans (congrArg Instr.feed BitVec.extractLsb'_append_eq_right)

@[simp] theorem decodeWord_feedWord (b : Byte) : decodeWord (feedWord b) = .feed b :=
  (congrArg decodeWord (append_zero_add_setWidth 0b001 b)).trans (decodeWord_append (by decide) (by decide) b)

@[simp] theorem decodeWord_feedtickWord (b : Byte) : decodeWord (feedtickWord b) = .feed b :=
  (congrArg decodeWord (append_zero_add_setWidth 0b011 b)).trans (decodeWord_append (by decide) (by decide) b)

@[simp] theorem decodeWord_resetWord : decodeWord resetWord = .reset := by decide

@[simp] theorem decodeWord_tickWord : decodeWord tickWord = .tick := by decide

@[simp] theorem decodeWord_idleWord : decodeWord idleWord = .idle := by decide

/-- The words of a byte list are those of its FEEDs. -/
theorem map_decodeWord_map_feedWord (bs : List Byte) : (bs.map feedWord).map decodeWord = bs.map .feed := by
  rw [List.map_map]
  exact List.map_congr_left fun b _ => decodeWord_feedWord b

/-- Decoding undoes assembling, up to the expansion: this holds of every operand, checked or not. -/
theorem map_decodeWord_encode (i : Instr) : (encode i).map decodeWord = expand i := by
  cases i with
  | reset => exact congrArg (fun op => [op]) decodeWord_resetWord
  | feed b => exact congrArg (fun op => [op]) (decodeWord_feedWord b)
  | tick => exact congrArg (fun op => [op]) decodeWord_tickWord
  | idle => exact congrArg (fun op => [op]) decodeWord_idleWord
  | checksum p => rfl
  | encode p => rfl
  | isResponse p => rfl
  | responseRequired p => rfl
  | feedtick b => exact congrArg (fun op => [op]) (decodeWord_feedtickWord b)
  | feedBuffer bs => exact map_decodeWord_map_feedWord bs
  | tickN n => simp [encode, expand]
  | idleN n => simp [encode, expand]
  | frame dst src cmd data => exact map_decodeWord_map_feedWord _

/-- A number of eleven bits decodes as the word it is. -/
theorem decodeTableWord_toNat (n : Nat) (w : CycleWord) : decodeTableWord n w.toNat = some (decodeWord w) := by
  simp [decodeTableWord, decode, w.isLt]

theorem decodeTableWord_eq_none_iff {n w : Nat} : decodeTableWord n w = none ↔ 2048 ≤ w := by
  by_cases hw : w < 2048
  · simp [decodeTableWord, decode, hw]
  · simpa [decodeTableWord, decode, hw] using Nat.le_of_not_lt hw

/-- Settles O1: the ten words are closed, and each decodes by computation. -/
theorem sampleCycleWordsDecode : Obligations.SampleCycleWordsDecode := by
  unfold Obligations.SampleCycleWordsDecode
  decide

/-- Settles O4: decoding the words gives the expansion, and an operation of the cycle word is its own expansion; the words and expansions
of the tables are those of the definitions. -/
theorem encodedWordsDecodeToExpansion : Obligations.EncodedWordsDecodeToExpansion := by
  refine ⟨fun i _ => map_decodeWord_encode i, fun i n w hexpand hencode => ?ownWord, rfl, rfl, rfl, fun b => rfl, fun b => rfl,
    rfl, fun b => rfl, rfl, rfl, fun b => rfl, fun bs => rfl, fun n => rfl, fun n => rfl, fun p => rfl⟩
  case ownWord =>
    have hdecode := map_decodeWord_encode i
    rw [hexpand, hencode, List.map_singleton, List.singleton_inj] at hdecode
    rw [decodeTableWord_toNat, hdecode]

/-- Settles O5: the decoder's one check is the bound on the number. -/
theorem numbersAboveElevenBitsRejected : Obligations.NumbersAboveElevenBitsRejected :=
  fun _ _ => decodeTableWord_eq_none_iff

end Sys2Proof.Machine
end

section
/-! The pseudo-instructions as their expansions (R70, R116): the runs of their statements, and the events those add. -/

namespace Sys2Proof.Machine

variable {s t : State} {b : Byte} {bs : List Byte}

theorem runAll_singleton (i : Instr) (s : State) : runAll [i] s = exec i s :=
  andThen_next_right

/-- `n` statements of one kind are the run of `n` of that instruction. -/
theorem runAll_replicate (i : Instr) (n : Nat) (s : State) : runAll (List.replicate n i) s = repeatStep (exec i) n s := by
  induction n generalizing s with
  | zero => rfl
  | succ n ih =>
    simp only [List.replicate_succ, runAll, repeatStep]
    congr 1
    funext u
    exact ih u

/-- An instruction that takes cycles runs as its expansion, one operation a cycle (R69, R70). -/
theorem exec_eq_runAll_expand {i : Instr} (hi : i.wf = true) (hport : usesPort i = false) (s : State) :
    exec i s = runAll (expand i) s := by
  cases i
  case feedtick b => exact (runAll_singleton (.feed b) s).symm
  case feedBuffer bs => exact (runAll_map_feed bs s).symm
  case tickN n => exact (runAll_replicate .tick n s).symm
  case idleN n => exact (runAll_replicate .idle n s).symm
  case frame dst src cmd data => exact (execFrame_of_wf hi s).trans (runAll_map_feed _ s).symm
  case reset | feed | tick | idle => exact (runAll_singleton _ s).symm
  all_goals cases hport

/-- Settles O49: each pseudo-instruction is the run of its expansion. -/
theorem pseudoInstructionRunsExpansion : Obligations.PseudoInstructionRunsExpansion :=
  ⟨fun bs s => exec_eq_runAll_expand (i := .feedBuffer bs) rfl rfl s,
    fun n s => exec_eq_runAll_expand (i := .tickN n) rfl rfl s,
    fun n s => exec_eq_runAll_expand (i := .idleN n) rfl rfl s,
    fun p s hp => exec_eq_runAll_expand (i := .frame p.dst p.src p.cmd p.data) hp rfl s⟩

theorem loggedOf_eq_ite (ev : Event) : loggedOf ev = if ev = .none then [] else [ev] := by
  cases ev <;> rfl

/-- A FEED adds its event to the log, and `NONE` adds nothing (R64, R144). -/
theorem execFeed_log (h : execFeed b s = .next t) : t.log = s.log ++ loggedOf t.ev := by
  obtain ⟨-, rfl⟩ | ⟨-, rfl⟩ | ⟨-, rfl⟩ | ⟨-, rfl⟩ | ⟨-, rfl⟩ | ⟨-, rfl⟩ | ⟨-, -, rfl⟩ | ⟨-, -, rfl⟩ | ⟨-, -, rfl⟩ |
    ⟨-, -, rfl⟩ := execFeed_next h <;> rfl

/-- What the log of a byte run may gain (R116): events, none of them a `NONE` or a timeout. -/
def FeedEvents (es : List Event) : Prop := .error .packetTimeout ∉ es ∧ .none ∉ es

theorem FeedEvents.append {es fs : List Event} (he : FeedEvents es) (hf : FeedEvents fs) : FeedEvents (es ++ fs) := by
  obtain ⟨hetimeout, henone⟩ := he
  obtain ⟨hftimeout, hfnone⟩ := hf
  simp [FeedEvents, hetimeout, henone, hftimeout, hfnone]

theorem FeedEvents.feed (h : execFeed b s = .next t) : FeedEvents (loggedOf t.ev) := by
  have htimeout := execFeed_ev_ne_packetTimeout h
  rw [loggedOf_eq_ite]
  split
  · simp [FeedEvents]
  · next hnone => simp [FeedEvents, htimeout.symm, Ne.symm hnone]

/-- The events of a run of FEEDs are those of its FEEDs, in order. -/
theorem feedAll_log (h : feedAll bs s = .next t) : ∃ es, t.log = s.log ++ es ∧ FeedEvents es := by
  induction bs generalizing s with
  | nil =>
    cases h
    exact ⟨[], (List.append_nil _).symm, by simp [FeedEvents]⟩
  | cons b bs ih =>
    obtain ⟨u, hu, ht⟩ := andThen_eq_next.mp h
    obtain ⟨es, hlog, hes⟩ := ih ht
    refine ⟨loggedOf u.ev ++ es, ?_, (FeedEvents.feed hu).append hes⟩
    rw [hlog, execFeed_log hu, List.append_assoc]

/-- Settles O50: the run of the bytes' FEEDs completes, each FEED adds its event, and none of these is a timeout. -/
theorem feedBufferCollectsEvents : Obligations.FeedBufferCollectsEvents := by
  obtain ⟨hbuffer, -⟩ := pseudoInstructionRunsExpansion
  refine ⟨hbuffer, fun b s t h => ?event, fun bs s => ?events⟩
  case event => rw [execFeed_log h, loggedOf_eq_ite]
  case events =>
    obtain ⟨t, ht⟩ := feedAll_completes bs s
    obtain ⟨es, hlog, htimeout, hnone⟩ := feedAll_log ht
    exact ⟨t, es, ht, hlog, htimeout, hnone⟩

end Sys2Proof.Machine
end

section
/-! The words of an instruction, offered one a step, run it (R61, R69, R70): no cycle reads what is offered next. -/

namespace Sys2Proof.Machine

variable {s t : State} {b : Byte}

theorem execFeed_emit (hst : s.st = .checksum) (hb : b = checksum (capturedPacket s)) :
    execFeed b s = .next (commit (.packet (capturedPacket s)) (toStart s)) := by
  rw [execFeed_checksum b s hst, feedChecksum, if_pos hb]

theorem execFeed_corrupt (hst : s.st = .checksum) (hb : b ≠ checksum (capturedPacket s)) :
    execFeed b s = .next (raiseError .corruptPacket s) := by
  rw [execFeed_checksum b s hst, feedChecksum, if_neg hb]

/-- A FEED does the same whatever is offered after it. -/
theorem execFeed_withInput (h : execFeed b s = .next t) (input : List Stimulus) :
    execFeed b { s with input := input } = .next { t with input := input } := by
  obtain ⟨hst, rfl⟩ | ⟨hst, rfl⟩ | ⟨hst, rfl⟩ | ⟨hst, rfl⟩ | ⟨hst, rfl⟩ | ⟨hst, rfl⟩ | ⟨hst, hi, rfl⟩ | ⟨hst, hb, rfl⟩ |
    ⟨hst, hb, rfl⟩ | ⟨hst, hi, rfl⟩ := execFeed_next h
  · exact execFeed_start b _ hst
  · exact execFeed_leadin b _ hst
  · exact execFeed_address b _ hst
  · exact execFeed_source b _ hst
  · exact execFeed_command b _ hst
  · exact execFeed_datalen b _ hst
  · exact execFeed_data b _ hst hi
  · exact execFeed_emit (s := { s with input := input }) hst hb
  · exact execFeed_corrupt (s := { s with input := input }) hst hb
  · exact execFeed_data_full b _ hst hi

/-- So does a TICK. -/
theorem execTick_withInput (h : execTick s = .next t) (input : List Stimulus) :
    execTick { s with input := input } = .next { t with input := input } := by
  obtain ⟨hrun, h'⟩ | ⟨hrun, he, h'⟩ | ⟨hrun, he, h'⟩ := execTick_cases s <;> rw [h'] at h <;> cases h
  · exact execTick_stopped hrun
  · exact execTick_timeout hrun he
  · exact execTick_counts hrun he

/-- Every cycle word does the same whatever is offered after it, and leaves that offer as it is. -/
theorem exec_decodeWord_withInput (w : CycleWord) (s : State) : ∃ t, exec (decodeWord w) s = .next t ∧ t.input = s.input ∧
    ∀ input, exec (decodeWord w) { s with input := input } = .next { t with input := input } := by
  obtain hw | ⟨b, hw⟩ | hw | hw := decodeWord_cases w <;> rw [hw]
  · exact ⟨_, rfl, rfl, fun _ => rfl⟩
  · obtain ⟨t, ht⟩ := execFeed_completes b s
    obtain ⟨-, -, hinput, -⟩ := execFeed_keeps b s ht
    exact ⟨t, ht, hinput, execFeed_withInput ht⟩
  · obtain ⟨t, ht⟩ := execTick_completes s
    obtain ⟨-, -, hinput, -⟩ := execTick_keeps s ht
    exact ⟨t, ht, hinput, execTick_withInput ht⟩
  · exact ⟨_, rfl, rfl, fun _ => rfl⟩

/-- A run that can take its first step goes on from there. -/
theorem run_succ_of_step {M : Host.Core} {s t : M.State} (h : M.step s = .next t) (k : Nat) : M.run (k + 1) s = M.run k t := by
  rw [Host.Core.run, h]

/-- Steps with cycle words offered run what the words decode to, one a step. -/
theorem run_offered (ws : List CycleWord) (s : State) :
    Host.Core.run core ws.length { s with input := offered ws ++ s.input } = runAll (ws.map decodeWord) s := by
  induction ws generalizing s with
  | nil => rfl
  | cons w ws ih =>
    obtain ⟨t, ht, hinput, hany⟩ := exec_decodeWord_withInput w s
    have hstep : core.step { s with input := offered (w :: ws) ++ s.input } = .next { t with input := offered ws ++ t.input } := by
      rw [hinput]
      exact hany (offered ws ++ s.input)
    rw [List.map_cons, runAll, ht, andThen_next, ← ih t]
    exact run_succ_of_step hstep ws.length

/-- Settles O9: the offered words are run one a step, they decode to the expansion, and the instruction runs as its expansion. -/
theorem offeredProgramRunsInstruction : Obligations.OfferedProgramRunsInstruction := by
  intro i s hi hport
  rw [run_offered, map_decodeWord_encode, exec_eq_runAll_expand hi hport]

end Sys2Proof.Machine
end

section
/-! The pins between two steps (R65, R67): they show the last event, and the packet they show lasts. -/

namespace Sys2Proof.Machine

variable {s t : State}

/-- Pins set by an event show it. -/
theorem PinsSetFrom.pinsShowEvent (h : PinsSetFrom s t) : PinsShowEvent t := by
  obtain ⟨hpkt, herr, hcode, hdst, hsrc, hcmd, hlen, -⟩ := h
  refine ⟨hpkt, herr, hcode, ?_⟩
  cases hev : t.ev with
  | none => rfl
  | packet p =>
    rw [hev] at hdst hsrc hcmd hlen
    simp [holdShows, hdst, hsrc, hcmd, hlen]
  | error e => rfl

/-- After every cycle word the pins show its event, whatever they showed before. -/
theorem pinsShowEvent_of_exec_decodeWord {w : CycleWord} (h : exec (decodeWord w) s = .next t) : PinsShowEvent t := by
  by_cases hreset : decodeWord w = .reset
  · rw [hreset] at h
    cases h
    exact ⟨rfl, rfl, rfl, rfl⟩
  · exact (PinsSetFrom.exec_decodeWord h hreset).pinsShowEvent

/-- Settles O33: a cycle word sets the pins by its event, and a use of a port writes neither the event nor a pin. -/
theorem pinsShowEventAfterEveryStep : Obligations.PinsShowEventAfterEveryStep := by
  intro s t hs h
  obtain ⟨input, envTime, ⟨w, hw⟩ | ⟨v, rfl⟩⟩ := step_next h
  · exact pinsShowEvent_of_exec_decodeWord hw
  · exact hs

/-- A packet event is FEED's emission of the captured packet (R101, R109). -/
theorem eq_emit_of_ev {w : CycleWord} {p : Packet} (h : exec (decodeWord w) s = .next t) (hev : t.ev = .packet p) :
    p = capturedPacket s ∧ t = commit (.packet p) (toStart s) := by
  obtain ⟨-, -, hpacket⟩ := eventsByCause w s t h
  obtain ⟨hw, hst, rfl⟩ := (hpacket p).mp hev
  rw [hw] at h
  have hemit := execFeed_emit hst rfl
  exact ⟨rfl, Host.Outcome.next.inj (h.symm.trans hemit)⟩

/-- The emission shows the captured packet: the hold registers take its header and length, and the buffer stays (R67). -/
theorem heldPacket_emit (s : State) : heldPacket (commit (.packet (capturedPacket s)) (toStart s)) = capturedPacket s := by
  simp [heldPacket, capturedPacket]

/-- An event other than a packet leaves the hold registers (R29, R65). -/
theorem holdOf_of_not_packet {ev : Event} (hev : ∀ p, ev ≠ .packet p) (field : Packet → Byte) (old : Byte) :
    holdOf ev field old = old := by
  cases ev with
  | none => rfl
  | packet p => exact absurd rfl (hev p)
  | error e => rfl

/-- The packet shown is fixed by the hold registers and the entries below `o_len`. -/
theorem heldPacket_congr (hdst : t.oDst = s.oDst) (hsrc : t.oSrc = s.oSrc) (hcmd : t.oCmd = s.oCmd) (hlen : t.oLen = s.oLen)
    (hbuf : ∀ j, j < s.oLen.toNat → Memory.read t.buf j = Memory.read s.buf j) : heldPacket t = heldPacket s := by
  simp only [heldPacket, hdst, hsrc, hcmd, hlen, readPrefix_congr hbuf]

/-- A cycle word writes no entry of the buffer below `o_len`, unless it is a FEED in DATA that finds `idx` there (R26, R67). -/
theorem read_eq_of_lt_oLen {w : CycleWord} {j : Nat} (h : exec (decodeWord w) s = .next t) (hreset : decodeWord w ≠ .reset)
    (hkeep : ∀ b, decodeWord w = .feed b → s.st = .data → s.oLen.toNat ≤ s.idx.toNat) (hj : j < s.oLen.toNat) :
    Memory.read t.buf j = Memory.read s.buf j := by
  obtain ⟨-, -, -, -, -, hbuf, -⟩ := onlyNamedOperationsWrite w s t h hreset
  refine Decidable.byContradiction fun hne => ?_
  obtain ⟨hst, rfl, -, b, hw⟩ := hbuf j hne
  exact Nat.not_lt.mpr (hkeep b hw hst) hj

/-- Settles O40: the read port reads the buffer; an emission shows its packet; and what shows it is written by an emission, by RESET or by
the FEEDs in DATA that the statement names. -/
theorem readPortShowsHeldPacket : Obligations.ReadPortShowsHeldPacket := by
  refine ⟨fun i s rest h => ?port, fun w s t p h hev => ?emitted, fun w s t h hreset hev hkeep => ?kept⟩
  case port => exact step_of_port h
  case emitted =>
    obtain ⟨rfl, rfl⟩ := eq_emit_of_ev h hev
    exact heldPacket_emit s
  case kept =>
    have hpins := PinsSetFrom.exec_decodeWord h hreset
    have hhold := holdOf_of_not_packet hev
    exact heldPacket_congr (hpins.oDst.trans (hhold _ _)) (hpins.oSrc.trans (hhold _ _)) (hpins.oCmd.trans (hhold _ _))
      (hpins.oLen.trans (hhold _ _)) fun j hj => read_eq_of_lt_oLen h hreset hkeep hj

end Sys2Proof.Machine
end

section
/-! The checksum as a running accumulator (R81), the uses of a port that the outside world offers, and operands that are no packet (log 4,
log 10). -/

namespace Sys2Proof.Machine

/-- An 8-bit accumulator that wraps at each addition ends with the natural sum reduced once (R81). -/
theorem foldl_add_eq_byteSum (l : List Byte) (acc : Byte) :
    l.foldl (fun acc b => acc + b) acc = acc + BitVec.ofNat 8 (byteSum l) := by
  induction l generalizing acc with
  | nil => simp
  | cons b l ih =>
    rw [List.foldl_cons, ih, byteSum_cons, BitVec.ofNat_add, BitVec.ofNat_toNat, BitVec.setWidth_eq, BitVec.add_assoc]

/-- Settles O35: the port gives the checksum, whose sum may be reduced before it becomes a byte or at each addition. -/
theorem checksumPortGivesSum : Obligations.ChecksumPortGivesSum := by
  refine ⟨fun p s hp => ?port, fun p _ => ?accumulator⟩
  case port =>
    have hreduced : checksum p = BitVec.ofNat 8
        ((p.dst.toNat + p.src.toNat + p.cmd.toNat + p.data.length + (p.data.map BitVec.toNat).sum) % 256) :=
      BitVec.eq_of_toNat_eq (by rw [checksum_toNat]; simp [byteSum])
    rw [← hreduced]
    exact execChecksum_of_wf hp s
  case accumulator =>
    rw [foldl_add_eq_byteSum, checksum]
    simp only [BitVec.ofNat_add, BitVec.ofNat_toNat, BitVec.setWidth_eq]

/-- Settles O7: a use of a function port has the meaning of its row. -/
theorem stepUsesOfferedPort : Obligations.StepUsesOfferedPort :=
  fun _ _ _ => ⟨step_of_port, step_of_port, step_of_port, step_of_port⟩

/-- Settles O8: the free word is run as a known one is. -/
theorem stepTakesFreeWordWhenNoneKnown : Obligations.StepTakesFreeWordWhenNoneKnown :=
  fun _ => step_of_input_nil

/-- Settles O39: each of the four checks that its operand is a packet before anything else (R80, R85). -/
theorem noPacketNoMeaning : Obligations.NoPacketNoMeaning := by
  intro p s h
  have hwf : ¬p.wf = true := fun hwf => Nat.not_lt.mpr (Packet.wf_iff.mp hwf) h
  exact ⟨if_neg hwf, if_neg hwf, if_neg hwf, if_neg hwf⟩

end Sys2Proof.Machine
end

section
/-! What counted TICKs and IDLEs come to (R70, R112 to R114). -/

namespace Sys2Proof.Machine

variable {s t : State}

/-- A statement that changes nothing when repeated does, any number of times, what it does once. -/
theorem repeatStep_of_fixed {f : State → Host.Outcome State Fault Refusal} (h : f s = .next t) (hfix : f t = .next t) (n : Nat) :
    repeatStep f n s = .next (if n = 0 then s else t) := by
  induction n generalizing s with
  | zero => rfl
  | succ n ih =>
    rw [repeatStep, h, andThen_next, ih hfix, ite_self, if_neg (Nat.succ_ne_zero n)]

theorem execIdleN_eq (n : Nat) (s : State) : execIdleN n s = .next (if n = 0 then s else silent s) :=
  repeatStep_of_fixed (f := execIdle) (t := silent s) rfl (congrArg Host.Outcome.next (silent_silent s)) n

/-- With the timer stopped any number of TICKs do what one IDLE does (R112). -/
theorem execTickN_stopped (h : running s.st = false) (n : Nat) : execTickN n s = .next (if n = 0 then s else silent s) := by
  refine repeatStep_of_fixed (execTick_stopped h) ?_ n
  rw [execTick_stopped (s := silent s) h, silent_silent]

/-- While the timer runs, TICKs up to `T_IB` are counted (R113). -/
theorem execTickN_counts (hrun : running s.st = true) {n : Nat} (hfit : s.elapsed + n ≤ s.cfg.tIB.val) :
    execTickN n s = .next (if n = 0 then s else silent { s with elapsed := s.elapsed + n }) := by
  induction n generalizing s with
  | zero => rfl
  | succ n ih =>
    have htick := execTick_counts hrun (by omega)
    have hrest := ih (s := silent { s with elapsed := s.elapsed + 1 }) hrun (by simp only [silent_elapsed, silent_cfg]; omega)
    rw [execTickN] at hrest ⊢
    rw [repeatStep, htick, andThen_next, hrest, if_neg (Nat.succ_ne_zero n)]
    split
    · next hn => rw [hn]
    · simp only [silent_eq, Nat.add_assoc, Nat.add_comm 1 n]

/-- The TICK that finds `elapsed = T_IB` times the frame out, and the timer is stopped for those after it (R112, R113). -/
theorem execTickN_timeout (hrun : running s.st = true) (hle : s.elapsed ≤ s.cfg.tIB.val) {n : Nat}
    (hlt : s.cfg.tIB.val < s.elapsed + n) : ∃ t, execTickN n s = .next t ∧ t.st = .start ∧ t.elapsed = 0 ∧
      t.log = s.log ++ [.error .packetTimeout] := by
  obtain ⟨m, rfl⟩ : ∃ m, n = s.cfg.tIB.val - s.elapsed + 1 + m := ⟨n - (s.cfg.tIB.val - s.elapsed + 1), by omega⟩
  obtain ⟨u, -, hsu, -, htimeout⟩ := runAll_pauses_timeout hrun (gap := List.replicate (s.cfg.tIB.val - s.elapsed) true)
    (by rw [List.count_replicate_self]; omega)
  rw [← List.replicate_succ', runAll_pauses_replicate_true] at htimeout
  have hrest := execTickN_stopped (s := raiseError .packetTimeout u) rfl m
  rw [execTickN] at htimeout hrest ⊢
  rw [repeatStep_add, htimeout, andThen_next, hrest]
  refine ⟨_, rfl, ?_⟩
  split <;> simp [hsu.log]

/-- Settles O48: the closed forms of the counted statements, with the end of a step with the event `NONE` written out. -/
theorem countedTicksAndIdles : Obligations.CountedTicksAndIdles := by
  intro n s
  refine ⟨?idle, fun hstop => ?stopped, fun hrun hfit => ?counts, fun hrun hle hlt => execTickN_timeout hrun hle hlt⟩
  case idle => exact (execIdleN_eq n s).trans (by rw [silent_eq])
  case stopped => exact (execTickN_stopped hstop n).trans (by rw [silent_eq])
  case counts => exact (execTickN_counts hrun hfit).trans (by rw [silent_eq])

end Sys2Proof.Machine
end

section
/-! FEED in DATA at the missing entry (R40, log 8), and the invariant of R34 at reset. -/

namespace Sys2Proof.Machine

/-- Settles O22: nothing is written and `idx` takes the free value, the step ends with the event `NONE`, and every FEED completes. -/
theorem feedAtMissingEntryWritesNothing : Obligations.FeedAtMissingEntryWritesNothing := by
  refine ⟨fun b s hst hidx => ?missingEntry, execFeed_completes⟩
  case missingEntry => exact (execFeed_data_full b s hst hidx).trans (by rw [silent_eq])

/-- Settles O54: at reset the timer is at 0, no data byte is awaited, and the buffer is the empty list. -/
theorem invariantHoldsAtReset : Obligations.InvariantHoldsAtReset :=
  frameInv_iff.mpr ⟨TimerInv.of_elapsed_zero rfl, CountInv.of_st_ne nofun nofun reset_buf_wf⟩

end Sys2Proof.Machine
end
